-- ==== Sys2Proof/Word.lean ====
section
/-! DEFINITION. The word types of the RANP framer (spec/00_scope.md R8, R9): bytes, the 32-bit words of
the wire format and of the register slots, and the 64-bit DELAY. -/

namespace Sys2Proof

/-- One byte of IN, OUT or payloadExtra. -/
abbrev Byte := BitVec 8

/-- `u32`: an opcode, a size, a payload word or a register slot (R8 WORD_BITS). -/
abbrev Word := BitVec 32

/-- `s64`: the running delay (R8 "DELAY width", R31). -/
abbrev DWord := BitVec 64

end Sys2Proof
end

