-- ==== Sys2Proof/Syntax.lean ====
section
/-! DEFINITION. The instructions of the RANP framer: one constructor per row of spec/opcode_table.json, and the
command record they stand for (spec/10_state.md R40, spec/30_encoding.md R80 to R93). -/

namespace Sys2Proof

/-- A command record (R10, R40): opcode, payload words in order, payloadExtra bytes in order. -/
structure Command where
  opcode  : Word
  payload : List Word
  extra   : List Byte
  deriving DecidableEq, Repr

/-- The instructions. A packet command carries its payload words and extra bytes; UNKNOWN also carries the raw opcode
number (R88). A CTRL command carries the 30 ignored bits CTRL[31:2] (R93), so that no bit of its word is dropped. -/
inductive Instr where
  | input          (payload : List Word) (extra : List Byte)
  | noinput        (payload : List Word) (extra : List Byte)
  | info           (payload : List Word) (extra : List Byte)
  | mode           (payload : List Word) (extra : List Byte)
  | crc            (payload : List Word) (extra : List Byte)
  | loadSavestate  (payload : List Word) (extra : List Byte)
  | reset          (payload : List Word) (extra : List Byte)
  | flipPlayers    (payload : List Word) (extra : List Byte)
  | unknown        (opcode : Word) (payload : List Word) (extra : List Byte)
  | ctrlNop        (ignored : BitVec 30)
  | startTransform (ignored : BitVec 30)
  | startEncode    (ignored : BitVec 30)
  | startDecode    (ignored : BitVec 30)
  deriving DecidableEq, Repr

/-- Where an instruction's bits stand: a packet in a byte stream (R80), or a word the host writes to CTRL (R93). -/
inductive Code where
  | stream (bytes : List Byte)
  | ctrl   (value : Word)
  deriving DecidableEq, Repr

/-- What decoding answers: an instruction with the bytes after it, or why there is none (R100, R101). -/
inductive DecodeResult where
  | ok (i : Instr) (rest : List Byte)
  | endOfStream
  | truncatedHeader
  | truncatedPayload
  deriving DecidableEq, Repr

end Sys2Proof
end

