-- ==== Sys2Proof/Decode.lean ====
section
/-! DEFINITION. Byte order, the opcode map, the decoder (total on any bytes) and, after it, the encoder
(spec/20_memory.md R63; spec/30_encoding.md R80 to R93; spec/40_codec.md R100 to R103). -/

namespace Sys2Proof

/-! ### Byte order (R10, R63) -/

/-- `be32`: the first byte holds bits [31:24]. -/
def be32 (b0 b1 b2 b3 : Byte) : Word :=
  b0 ++ b1 ++ b2 ++ b3

/-- `bytes32`: the four bytes of a word in stream order, most significant first. -/
def bytes32 (v : Word) : List Byte :=
  [v.extractLsb' 24 8, v.extractLsb' 16 8, v.extractLsb' 8 8, v.extractLsb' 0 8]

/-! ### The opcode map (R85). UNVERIFIED literals: log entry 15. -/

def opInput : Word := 0x03
def opNoinput : Word := 0x04
def opInfo : Word := 0x22
def opMode : Word := 0x26
def opCrc : Word := 0x40
def opLoadSavestate : Word := 0x42
def opReset : Word := 0x46
def opFlipPlayers : Word := 0x60

/-- The opcode words of R85; every other word is UNKNOWN. -/
def knownOpcodes : List Word :=
  [opInput, opNoinput, opInfo, opMode, opCrc, opLoadSavestate, opReset, opFlipPlayers]

/-- The instruction a command record stands for: its opcode word matched on all 32 bits, UNKNOWN last (R81, R85,
R90). -/
def instrOfCommand (c : Command) : Instr :=
  if c.opcode = opInput then .input c.payload c.extra
  else if c.opcode = opNoinput then .noinput c.payload c.extra
  else if c.opcode = opInfo then .info c.payload c.extra
  else if c.opcode = opMode then .mode c.payload c.extra
  else if c.opcode = opCrc then .crc c.payload c.extra
  else if c.opcode = opLoadSavestate then .loadSavestate c.payload c.extra
  else if c.opcode = opReset then .reset c.payload c.extra
  else if c.opcode = opFlipPlayers then .flipPlayers c.payload c.extra
  else .unknown c.opcode c.payload c.extra

/-- The command record of a packet instruction; none for a CTRL command. -/
def commandOf : Instr → Option Command
  | .input p x         => some ⟨opInput, p, x⟩
  | .noinput p x       => some ⟨opNoinput, p, x⟩
  | .info p x          => some ⟨opInfo, p, x⟩
  | .mode p x          => some ⟨opMode, p, x⟩
  | .crc p x           => some ⟨opCrc, p, x⟩
  | .loadSavestate p x => some ⟨opLoadSavestate, p, x⟩
  | .reset p x         => some ⟨opReset, p, x⟩
  | .flipPlayers p x   => some ⟨opFlipPlayers, p, x⟩
  | .unknown op p x    => some ⟨op, p, x⟩
  | .ctrlNop _         => none
  | .startTransform _  => none
  | .startEncode _     => none
  | .startDecode _     => none

/-! ### Decoding (R100 to R103, R93) -/

/-- The payload words of a payload section: one per four bytes, `floor(size / 4)` of them (R83, R102). -/
def payloadWords : List Byte → List Word
  | b0 :: b1 :: b2 :: b3 :: rest => be32 b0 b1 b2 b3 :: payloadWords rest
  | _ => []

/-- The `size mod 4` bytes of a payload section after its last whole word (R84, R103). -/
def payloadExtra : List Byte → List Byte
  | _ :: _ :: _ :: _ :: rest => payloadExtra rest
  | short => short

/-- The instruction of a packet with this opcode word and payload section (R102, R103). -/
def decodePacket (opcode : Word) (body : List Byte) : Instr :=
  instrOfCommand ⟨opcode, payloadWords body, payloadExtra body⟩

/-- Decode the first packet of a byte sequence (R100 to R103). -/
def decodeStream : List Byte → DecodeResult
  | [] => .endOfStream
  | b0 :: b1 :: b2 :: b3 :: b4 :: b5 :: b6 :: b7 :: rest =>
    let size := (be32 b4 b5 b6 b7).toNat
    if rest.length < size then .truncatedPayload
    else .ok (decodePacket (be32 b0 b1 b2 b3) (rest.take size)) (rest.drop size)
  | _ => .truncatedHeader

/-- The host command in a word written to CTRL: bits [1:0]; bits [31:2] are ignored (R93). -/
def decodeCtrl (v : Word) : Instr :=
  let ignored := v.extractLsb' 2 30
  match v.extractLsb' 0 2 with
  | 0 => .ctrlNop ignored
  | 1 => .startTransform ignored
  | 2 => .startEncode ignored
  | 3 => .startDecode ignored

/-- Decode an instruction where it stands: a packet of a stream, or a CTRL word. -/
def decode : Code → DecodeResult
  | .stream bytes => decodeStream bytes
  | .ctrl v => .ok (decodeCtrl v) []

/-! ### Encoding (R80 to R84, R93) -/

/-- The `size` field of a command: `4 k + e` (R82). -/
def payloadSize (c : Command) : Nat :=
  4 * c.payload.length + c.extra.length

/-- The eight header bytes (R80) with a given size field. -/
def headerBytes (opcode : Word) (size : Nat) : List Byte :=
  bytes32 opcode ++ bytes32 (BitVec.ofNat 32 size)

/-- The bytes of the payload words, in order (R83). -/
def payloadBytes (payload : List Word) : List Byte :=
  payload.flatMap bytes32

/-- The bytes of a packet in the format of R80. -/
def packetBytes (c : Command) : List Byte :=
  headerBytes c.opcode (payloadSize c) ++ payloadBytes c.payload ++ c.extra

/-- The CTRL word with command number `cmd` in bits [1:0] (R93). -/
def ctrlWord (ignored : BitVec 30) (cmd : BitVec 2) : Word :=
  ignored ++ cmd

/-- The bits of an instruction. -/
def encode : Instr → Code
  | .input p x         => .stream (packetBytes ⟨opInput, p, x⟩)
  | .noinput p x       => .stream (packetBytes ⟨opNoinput, p, x⟩)
  | .info p x          => .stream (packetBytes ⟨opInfo, p, x⟩)
  | .mode p x          => .stream (packetBytes ⟨opMode, p, x⟩)
  | .crc p x           => .stream (packetBytes ⟨opCrc, p, x⟩)
  | .loadSavestate p x => .stream (packetBytes ⟨opLoadSavestate, p, x⟩)
  | .reset p x         => .stream (packetBytes ⟨opReset, p, x⟩)
  | .flipPlayers p x   => .stream (packetBytes ⟨opFlipPlayers, p, x⟩)
  | .unknown op p x    => .stream (packetBytes ⟨op, p, x⟩)
  | .ctrlNop r         => .ctrl (ctrlWord r 0)
  | .startTransform r  => .ctrl (ctrlWord r 1)
  | .startEncode r     => .ctrl (ctrlWord r 2)
  | .startDecode r     => .ctrl (ctrlWord r 3)

/-! ### The opcode table's words (spec/opcode_table.json). DESIGN CHOICE, log entry 1. -/

/-- A CTRL row gives 2 of its bits, one byte; a RANP_PACKET row gives the 32 bits of the opcode word (none for
UNKNOWN's row, whose mask is 0). -/
def isCtrlRow (nbits : Nat) : Bool :=
  0 < nbits && nbits < 32

/-- Word `j` of an instruction whose bits are `w`, numbered as the table numbers them. -/
def tableWord (w j : Nat) : Word :=
  BitVec.ofNat 32 (w / 2 ^ (32 * j))

/-- The packet whose bits are `w`: whole big-endian words, at least the two of the header, and zeros up to the
length the size field gives. -/
def tableBytes (nbits w : Nat) : List Byte :=
  let words := (List.range (max 2 ((nbits + 31) / 32))).flatMap fun j => bytes32 (tableWord w j)
  words ++ List.replicate (8 + (tableWord w 1).toNat - words.length) 0

/-- The bits of a table word, where this hardware holds them. -/
def tableCode (nbits w : Nat) : Code :=
  if isCtrlRow nbits then .ctrl (BitVec.ofNat 32 w) else .stream (tableBytes nbits w)

/-- The instruction the decoder reads from the table's word `w`. -/
def decodeTableWord (nbits w : Nat) : Option Instr :=
  match decode (tableCode nbits w) with
  | .ok i _ => some i
  | .endOfStream => none
  | .truncatedHeader => none
  | .truncatedPayload => none

end Sys2Proof
end

