-- ==== Sys2Proof/Config.lean ====
section
/-! DEFINITION. What an implementation fixes, and the free values (spec/00_scope.md R8;
spec/93_implementation_defined.md I2, I10, I14). -/

namespace Sys2Proof

/-- The three readings of the OPEN parameter EXTRA_POLICY (R8, R106). -/
inductive ExtraPolicy where
  | fault
  | emit
  | omitLiteral
  deriving DecidableEq, Repr, Inhabited

/-- EXTRA_POLICY of an implementation that does not say which it is (R8: OPEN). No body: nothing can be proved of
its value. DESIGN CHOICE, safe: log entry 4. -/
opaque Config.extraPolicy : ExtraPolicy

/-- The n-th byte drawn when the decoder reads IN where nothing was loaded (R196: "a draw, any value, independently
at each read"). No body: a free value for every n. DESIGN CHOICE, safe: log entry 6. -/
opaque Config.freeByte : Nat → Byte

/-- A value of the parameter OUT_CAP (R8): 1 ≤ OUT_CAP ≤ 2^32 - 1. Log entry 5. -/
structure OutCap where
  /-- The capacity in bytes. -/
  bytes : Word
  /-- R8's range leaves out 0. -/
  pos   : 0 < bytes.toNat
  deriving DecidableEq, Repr

/-- OUT_CAP as the number that R107 compares with. -/
def OutCap.toNat (cap : OutCap) : Nat :=
  cap.bytes.toNat

/-- The default of the parameter OUT_CAP (R8): 2^32 - 1. Log entry 5. -/
def Config.outCapDefault : OutCap where
  bytes := 0xFFFFFFFF
  pos   := by decide

end Sys2Proof
end

