-- ==== Sys2Proof/Machine/State.lean ====
section
/-! DEFINITION. The state of the RANP framer: every register, memory and list of spec/10_state.md and
spec/20_memory.md, the implementation parameters, and the model's own inputs; the state after reset. -/

namespace Sys2Proof.Machine

/-- STATUS.PHASE (R25). -/
inductive Phase where
  | idle
  | running
  | done
  | error
  deriving DecidableEq, Repr

/-- STATUS.MODE (R25): the kind of the current or last run. -/
inductive Mode where
  | none
  | transform
  | encode
  | decode
  deriving DecidableEq, Repr

/-- STATUS.ERR_CODE (R221). Codes 8 to 255 are reserved and never written. -/
inductive ErrCode where
  | none
  | truncHeader
  | truncPayload
  | noFrameWord
  | frameRange
  | extraUnencodable
  | outOverflow
  | cmdInvalid
  deriving DecidableEq, Repr

/-- IN, the input memory (R60): the loaded bytes, as (address, byte) cells in rising order of address. -/
abbrev Memory := List Host.Cell

/-- A host operation (43_host_control.md R190, R191, R196, R197) or the assertion of hardware reset (R250). -/
inductive HostOp where
  | regRead    (idx : Fin 16)
  | regWrite   (idx : Fin 16) (v : Word)
  | loadIn     (bytes : List Byte)
  | setCmdIn   (records : List Command)
  | outRead    (i : Nat)
  | cmdOutRead (i : Nat)
  | hardReset
  deriving DecidableEq, Repr

/-- Who takes the next turn (R200, R226, I13): the FRAMER, or the host with one operation. Log entry 3. -/
inductive Turn where
  | framer
  | host (op : HostOp)
  deriving DecidableEq, Repr

/-- What a host read hands back (R190, R197, R202). Log entry 12. -/
inductive Reply where
  | word    (v : Word)
  | byte    (b : Byte)
  | command (c : Option Command)
  deriving DecidableEq, Repr

/-- The whole machine. -/
structure State where
  /-- STATUS.PHASE (R25). -/
  phase       : Phase
  /-- STATUS.MODE (R25). -/
  mode        : Mode
  /-- STATUS.ERR_CODE (R25, R221). -/
  errCode     : ErrCode
  /-- ERR_INFO (R26, R222). -/
  errInfo     : Word
  /-- CFG_DELAY, delayPerReset in two's complement (R27). -/
  cfgDelay    : Word
  /-- CFG_FLAGS: bit 0 GATE, bit 1 TRAILER (R28). -/
  cfgFlags    : BitVec 2
  /-- IN_LEN (R29). -/
  inLen       : Word
  /-- IN_OFFSET, the program counter (R24). -/
  inOffset    : Word
  /-- OUT_LEN (R30). -/
  outLen      : Word
  /-- DELAY, signed (R31). -/
  delay       : DWord
  /-- FLOOR (R32). -/
  floor       : Word
  /-- GATE_OPEN (R33). -/
  gateOpen    : Bool
  /-- LAST_FRAME (R34). -/
  lastFrame   : Word
  /-- CMD_COUNT (R35). -/
  cmdCount    : Word
  /-- IN (R60). -/
  inMem       : Memory
  /-- OUT (R61). -/
  out         : List Byte
  /-- CMD_IN (R41). -/
  cmdIn       : List Command
  /-- CMD_OUT (R42). -/
  cmdOut      : List Command
  /-- The parameter OUT_CAP, 1 to 2^32 - 1 (R8, R107); no step writes it. -/
  outCap      : OutCap
  /-- The parameter EXTRA_POLICY (R8, R106), or none where it is left open; no step writes it. -/
  extraPolicy : Option ExtraPolicy
  /-- The model's own: how many free bytes have been drawn (R196). -/
  draws       : Nat
  /-- The model's own: the turns to come (I13). -/
  schedule    : List Turn
  /-- The model's own: what host reads have returned, oldest first (R202). -/
  replies     : List Reply
  deriving DecidableEq, Repr

/-- Why the machine stops with a fault. Neither is an error of the spec (those are next states, R230). -/
inductive Fault where
  /-- A turn of the FRAMER with PHASE = RUNNING and MODE = NONE, for which R200 names no step. Raised by the FRAMER's
  step and by every packet command. Safe: no start command leads there (log entry 9). -/
  | runningWithoutMode
  /-- A turn of the FRAMER in an ENCODE run with CMD_COUNT past the end of CMD_IN, where R194 would read no record.
  Raised by the FRAMER's step. Safe: no run reaches it (log entry 10). -/
  | cmdCountPastEnd
  deriving DecidableEq, Repr

/-- Why a step has no meaning. -/
inductive Refusal where
  /-- An instruction without a meaning in this model. Raised by exec's arms only; safe. -/
  | notModelled (mnemonic : String)
  /-- LoadIn or SetCmdIn while PHASE = RUNNING, for which "a model has no host step" (R206). Raised by the host's
  turn; safe (log entry 11). -/
  | noHostMove
  /-- LoadIn of more than 2^32 - 1 bytes, outside R196's operands. Raised by the host's turn; safe (log entry 11). -/
  | loadTooLong
  deriving DecidableEq, Repr

/-- The machine after hardware reset (R47, R250). IN and CMD_IN, which reset does not change, are empty (log entry 7);
OUT_CAP has its default (log entry 5) and EXTRA_POLICY is left open (log entry 4). -/
def State.reset : State where
  phase       := .idle
  mode        := .none
  errCode     := .none
  errInfo     := 0
  cfgDelay    := 0
  cfgFlags    := 0
  inLen       := 0
  inOffset    := 0
  outLen      := 0
  delay       := 0
  floor       := 0
  gateOpen    := false
  lastFrame   := 0
  cmdCount    := 0
  inMem       := []
  out         := []
  cmdIn       := []
  cmdOut      := []
  outCap      := Config.outCapDefault
  extraPolicy := none
  draws       := 0
  schedule    := []
  replies     := []

end Sys2Proof.Machine
end

