-- ==== Sys2Proof/Machine/Operands.lean ====
section
/-! DEFINITION. The operands of the machine: the register slots by name (spec/10_state.md R22), the configuration as
the transform reads it (R27, R28), the frame word and its adjustment (spec/42_transform.md R152 to R154), FILLER
(spec/30_encoding.md R89), the INPUT view and the buttons (R86, R87). -/

namespace Sys2Proof.Machine

/-! ### Register slots (R22) -/

/-- The sixteen slots of R22. -/
inductive Reg where
  | ctrl
  | status
  | errInfo
  | cfgDelay
  | cfgFlags
  | inLen
  | inOffset
  | outLen
  | delayLo
  | delayHi
  | floor
  | gateOpen
  | lastFrame
  | cmdCount
  | reserved14
  | reserved15
  deriving DecidableEq, Repr

/-- The slot at an index (R22). -/
def regOfIndex (idx : Fin 16) : Reg :=
  match idx.val with
  | 0 => .ctrl
  | 1 => .status
  | 2 => .errInfo
  | 3 => .cfgDelay
  | 4 => .cfgFlags
  | 5 => .inLen
  | 6 => .inOffset
  | 7 => .outLen
  | 8 => .delayLo
  | 9 => .delayHi
  | 10 => .floor
  | 11 => .gateOpen
  | 12 => .lastFrame
  | 13 => .cmdCount
  | 14 => .reserved14
  | _ => .reserved15

/-! ### Configuration operands -/

/-- `D = sext_32(R.CFG_DELAY)` (R27). -/
def delayPerReset (s : State) : Int :=
  s.cfgDelay.toInt

/-- `max(D, 0)`: how many fillers a RESET inserts (R160; NEGATIVE_DELAY = Clamp, R162). -/
def fillerCount (s : State) : Nat :=
  (delayPerReset s).toNat

/-- TRAILER_COUNT (R8, R165). UNVERIFIED literal: log entry 15. -/
def trailerCount : Nat := 60

/-- EXTRA_POLICY in force: the parameter, or the implementation's own where it is left open (R8). Log entry 4. -/
def policyInForce (s : State) : ExtraPolicy :=
  s.extraPolicy.getD Config.extraPolicy

/-! ### The frame word (R152, R154) -/

/-- FRAME_BEARING (R8, R152). -/
def frameBearingOpcodes : List Word :=
  [opInput, opNoinput, opMode, opCrc, opLoadSavestate, opReset, opFlipPlayers]

/-- `isFrameBearing(op)`: an exact 32-bit comparison (R152). -/
def isFrameBearing (op : Word) : Bool :=
  frameBearingOpcodes.contains op

/-- `adj = zext_32(payload[0]) + DELAY`, an exact sum (R154). -/
def adjustedFrame (frame : Word) (delay : DWord) : Int :=
  frame.toNat + delay.toInt

/-! ### FILLER (R89) -/

/-- `FILLER(f) = INPUT(f, 0, 0, 0, 0)`. -/
def filler (f : Word) : Command where
  opcode  := opInput
  payload := [f, 0, 0, 0, 0]
  extra   := []

/-! ### The INPUT view (R86, R87): no step reads it -/

/-- The convenience view of an INPUT command. -/
structure InputView where
  frame   : Option Word
  player  : Word
  buttons : Word
  analog1 : Word
  analog2 : Word
  deriving DecidableEq, Repr

/-- `inputView(c)` (R86), for a command with INPUT's opcode; its frame is undefined (none) when k = 0 (log entry 16). -/
def inputView (c : Command) : Option InputView :=
  if c.opcode = opInput then
    some {
      frame   := c.payload[0]?
      player  := c.payload[1]?.getD 0
      buttons := c.payload[2]?.getD 0
      analog1 := c.payload[3]?.getD 0
      analog2 := c.payload[4]?.getD 0 }
  else none

/-- The buttons of R87. -/
inductive Button where
  | b
  | y
  | select
  | start
  | up
  | down
  | left
  | right
  | a
  | x
  | l
  | r
  deriving DecidableEq, Repr

/-- A button's bit in INPUT's buttons word (R87). UNVERIFIED literals: log entry 15. -/
def buttonBit : Button → Nat
  | .b => 0
  | .y => 1
  | .select => 2
  | .start => 3
  | .up => 4
  | .down => 5
  | .left => 6
  | .right => 7
  | .a => 8
  | .x => 9
  | .l => 10
  | .r => 11

/-- Whether a button is held in a buttons word (R87). -/
def buttonHeld (which : Button) (buttons : Word) : Bool :=
  buttons.getLsbD (buttonBit which)

end Sys2Proof.Machine
end

