-- ==== Sys2Proof/Machine/Flags.lean ====
section
/-! DEFINITION. The Boolean state and the status fields of the block (spec/10_state.md R25, R28, R33, R44): the two
configuration flags, the gate's condition, and STATUS as a word. The block has no arithmetic flags (R44). -/

namespace Sys2Proof.Machine

/-- CFG_FLAGS.GATE, gateUntilReset (R28). -/
def gateConfigured (s : State) : Bool :=
  s.cfgFlags.getLsbD 0

/-- CFG_FLAGS.TRAILER, appendTrailer (R28). -/
def trailerConfigured (s : State) : Bool :=
  s.cfgFlags.getLsbD 1

/-- `GATE = 1 and R.GATE_OPEN = 0` (R157). -/
def gateClosed (s : State) : Bool :=
  gateConfigured s && !s.gateOpen

/-- PHASE as the two bits of STATUS[1:0] (R25). -/
def phaseBits : Phase → BitVec 2
  | .idle => 0
  | .running => 1
  | .done => 2
  | .error => 3

/-- MODE as the two bits of STATUS[3:2] (R25). -/
def modeBits : Mode → BitVec 2
  | .none => 0
  | .transform => 1
  | .encode => 2
  | .decode => 3

/-- ERR_CODE as the eight bits of STATUS[15:8] (R25, R221). -/
def errCodeBits : ErrCode → BitVec 8
  | .none => 0
  | .truncHeader => 1
  | .truncPayload => 2
  | .noFrameWord => 3
  | .frameRange => 4
  | .extraUnencodable => 5
  | .outOverflow => 6
  | .cmdInvalid => 7

/-- STATUS as it reads: `PHASE | MODE << 2 | ERR_CODE << 8`, reserved bits 0 (R25, R190). -/
def statusWord (s : State) : Word :=
  0#16 ++ errCodeBits s.errCode ++ 0#4 ++ modeBits s.mode ++ phaseBits s.phase

end Sys2Proof.Machine
end

