-- ==== Sys2Proof/Machine/Ops.lean ====
section
/-! DEFINITION. The named operations over memory and registers: reads of IN (spec/20_memory.md R60), error entry and
the two ways out of it (spec/60_exceptions.md R230, R232), the codec's bookkeeping, ENCODE and EMIT
(spec/40_codec.md R104 to R108), filler emission (spec/42_transform.md R160). -/

namespace Sys2Proof.Machine

/-! ### IN (R60) -/

/-- What an address that is not listed reads as: no loaded byte (R196; a read of it draws one). -/
def Memory.unlisted : Option Byte := none

/-- The loaded byte at an address. -/
def Memory.read : Memory → Nat → Option Byte
  | [], _ => Memory.unlisted
  | c :: m, a => if c.1 = a then some c.2 else Memory.read m a

/-- The canonical form: addresses strictly rising. (No entry can equal what an unlisted address reads as.) -/
abbrev Memory.wf (m : Memory) : Prop :=
  m.Pairwise fun c d => c.1 < d.1

/-- Put one byte at an address, keeping the form. The block never writes IN (R60); the host's side does. -/
def Memory.write : Memory → Nat → Byte → Memory
  | [], a, b => [(a, b)]
  | c :: m, a, b =>
    if a < c.1 then (a, b) :: c :: m
    else if a = c.1 then (a, b) :: m
    else c :: Memory.write m a b

/-- Put bytes at consecutive addresses. -/
def Memory.writeBytes (m : Memory) : Nat → List Byte → Memory
  | _, [] => m
  | a, b :: bs => Memory.writeBytes (Memory.write m a b) (a + 1) bs

/-- A memory that holds the bytes at consecutive addresses and nothing else (R196). -/
def Memory.load : Nat → List Byte → Memory
  | _, [] => []
  | a, b :: bs => (a, b) :: Memory.load (a + 1) bs

/-- `MemRead` of one byte: the loaded byte, or a fresh draw (R196), with the count of draws after it. -/
def readByte (m : Memory) (a draws : Nat) : Byte × Nat :=
  match Memory.read m a with
  | some b => (b, draws)
  | none => (Config.freeByte draws, draws + 1)

/-- `MemRead(a, n)`, in rising order of address (R10). -/
def readBytes (m : Memory) (a : Nat) : Nat → Nat → List Byte × Nat
  | 0, draws => ([], draws)
  | n + 1, draws =>
    let (b, draws) := readByte m a draws
    let (bs, draws) := readBytes m (a + 1) n draws
    (b :: bs, draws)

/-- `be32(MemRead(a, 4))` (R63). -/
def readWord (m : Memory) (a draws : Nat) : Word × Nat :=
  let (b0, draws) := readByte m a draws
  let (b1, draws) := readByte m (a + 1) draws
  let (b2, draws) := readByte m (a + 2) draws
  let (b3, draws) := readByte m (a + 3) draws
  (be32 b0 b1 b2 b3, draws)

/-! ### Errors: taking one, and the ways out (R230, R232) -/

/-- Error entry, `raise E(info)` (R230): ERR_CODE, ERR_INFO and PHASE, nothing else. -/
def raise (e : ErrCode) (info : Word) (s : State) : State :=
  { s with errCode := e, errInfo := info, phase := .error }

/-- `START(mode)` (R192). -/
def startRun (m : Mode) (s : State) : State :=
  { s with
    mode := m, errCode := .none, errInfo := 0, inOffset := 0, cmdCount := 0,
    out := [], outLen := 0, cmdOut := [], delay := 0, floor := 0, gateOpen := false, lastFrame := 0,
    phase := .running }

/-- Hardware reset (R250): all block state; IN, CMD_IN and the parameters stay, and so does the host's side
(log entry 12). -/
def hardReset (s : State) : State :=
  { s with
    phase := .idle, mode := .none, errCode := .none, errInfo := 0, cfgDelay := 0, cfgFlags := 0,
    inLen := 0, inOffset := 0, cmdCount := 0, out := [], outLen := 0, cmdOut := [],
    delay := 0, floor := 0, gateOpen := false, lastFrame := 0 }

/-- The normal end of a run (R165, R194, R195). -/
def finishRun (s : State) : State :=
  { s with phase := .done }

/-! ### Named updates -/

/-- DECODE_NEXT's bookkeeping (R104): past the packet of `c`, one more packet decoded. Log entry 14. -/
def advance (c : Command) (s : State) : State :=
  { s with
    inOffset := s.inOffset + BitVec.ofNat 32 (8 + payloadSize c)
    cmdCount := s.cmdCount + 1 }

/-- ENCODE_STEP's bookkeeping (R194). Log entry 14. -/
def countEncoded (s : State) : State :=
  { s with cmdCount := s.cmdCount + 1 }

/-- Append a record to CMD_OUT (R195). -/
def deliver (c : Command) (s : State) : State :=
  { s with cmdOut := s.cmdOut ++ [c] }

/-- `MemWrite(R.OUT_LEN, len(s), s)` (R10, R61): append bytes to OUT. -/
def appendOut (bytes : List Byte) (s : State) : State :=
  { s with
    out := s.out ++ bytes
    outLen := s.outLen + BitVec.ofNat 32 bytes.length }

/-- `R.LAST_FRAME <- adj` (R155). -/
def setLastFrame (f : Word) (s : State) : State :=
  { s with lastFrame := f }

/-- `R.GATE_OPEN <- 1` (R157). -/
def openGate (s : State) : State :=
  { s with gateOpen := true }

/-- `R.DELAY <- R.DELAY + D; R.FLOOR <- F` (R161). Log entry 13. -/
def growDelay (f : Word) (s : State) : State :=
  { s with
    delay := s.delay + s.cfgDelay.signExtend 64
    floor := f }

/-- The count of draws after a read of IN (R196). -/
def setDraws (n : Nat) (s : State) : State :=
  { s with draws := n }

/-- The turns left after this one. -/
def setSchedule (l : List Turn) (s : State) : State :=
  { s with schedule := l }

/-- Hand a read's result to the host (R202). -/
def addReply (r : Reply) (s : State) : State :=
  { s with replies := s.replies ++ [r] }

/-! ### Steps that may end early -/

/-- A part of a FRAMER step: it goes on with a value, or the step has ended (a discard, or an error entered). -/
inductive Flow (α : Type) where
  | go (a : α) (s : State)
  | stop (s : State)
  deriving Repr

/-- The state a part leaves. -/
def Flow.state {α : Type} : Flow α → State
  | .go _ s => s
  | .stop s => s

/-! ### ENCODE, WRITE_PACKET, EMIT (R106 to R108) -/

/-- `ENCODE(c)` under a policy (R106): the bytes, or the error it raises. -/
def encodeCommand (policy : ExtraPolicy) (c : Command) : Except ErrCode (List Byte) :=
  if 3 < c.extra.length ∨ 2 ^ 32 - 1 < payloadSize c then .error .cmdInvalid
  else if c.extra = [] then .ok (headerBytes c.opcode (payloadSize c) ++ payloadBytes c.payload)
  else
    match policy with
    | .fault => .error .extraUnencodable
    | .emit => .ok (headerBytes c.opcode (payloadSize c) ++ payloadBytes c.payload ++ c.extra)
    | .omitLiteral => .ok (headerBytes c.opcode (payloadSize c) ++ payloadBytes c.payload)

/-- `WRITE_PACKET(s, info)` (R107): whole, or E_OUT_OVERFLOW and nothing of it. -/
def writePacket (bytes : List Byte) (info : Word) (s : State) : Flow Unit :=
  if s.outCap.toNat < s.outLen.toNat + bytes.length then .stop (raise .outOverflow info s)
  else .go () (appendOut bytes s)

/-- `EMIT(c, info)` (R108). -/
def emit (c : Command) (info : Word) (s : State) : Flow Unit :=
  match encodeCommand (policyInForce s) c with
  | .error e => .stop (raise e info s)
  | .ok bytes => writePacket bytes info s

/-- `n` fillers at the frames `f`, `f + 1`, …, each checked and emitted in turn (R160, R165, R225). -/
def emitFillers (info : Word) : Nat → Nat → State → Flow Unit
  | 0, _, s => .go () s
  | n + 1, f, s =>
    if 2 ^ 32 - 1 < f then .stop (raise .frameRange info s)
    else
      match emit (filler (BitVec.ofNat 32 f)) info s with
      | .stop s' => .stop s'
      | .go _ s' => emitFillers info n (f + 1) s'

end Sys2Proof.Machine
end

