-- ==== Sys2Proof/Machine/Transform.lean ====
section
/-! DEFINITION. The parts of TRANSFORM_STEP that the commands share, TRANSFORM_END, and what a packet command does in
each mode (spec/42_transform.md R151 to R166; spec/41_commands.md R120 to R129; spec/43_host_control.md R194, R195). -/

namespace Sys2Proof.Machine

/-- `ADJUST(c, o)`, step 1 (R153 to R156): the frame word, the floor, the range, LAST_FRAME. -/
def adjust (c : Command) (o : Word) (s : State) : Flow Command :=
  match c.payload with
  | [] => .stop (raise .noFrameWord o s)
  | frame :: rest =>
    let adj := adjustedFrame frame s.delay
    if adj < s.floor.toNat then .stop s
    else if 2 ^ 32 - 1 < adj then .stop (raise .frameRange o s)
    else
      let f := BitVec.ofInt 32 adj
      .go { c with payload := f :: rest } (setLastFrame f s)

/-- Step 2, the reset gate (R157). -/
def passGate (c : Command) (s : State) : Flow Unit :=
  if gateClosed s then
    if c.opcode = opReset then .go () (openGate s) else .stop s
  else .go () s

/-- `GATE_AND_EMIT(c, o)`, steps 2 and 3 (R157, R158). -/
def gateAndEmit (c : Command) (o : Word) (s : State) : Flow Unit :=
  match passGate c s with
  | .stop s' => .stop s'
  | .go _ s' => emit c o s'

/-- Step 4 with F, the emitted RESET's frame (R159 to R162). -/
def handleReset (f : Word) (o : Word) (s : State) : State :=
  if delayPerReset s = 0 then s
  else
    match emitFillers o (fillerCount s) f.toNat s with
    | .stop s' => s'
    | .go _ s' => growDelay f s'

/-- TRANSFORM_STEP for a command without frame semantics (R122, R128, R163). -/
def transformPlain (c : Command) (o : Word) (s : State) : State :=
  (gateAndEmit c o s).state

/-- TRANSFORM_STEP for a frame-bearing command other than RESET (R120, R121, R123 to R125, R127). -/
def transformFrame (c : Command) (o : Word) (s : State) : State :=
  match adjust c o s with
  | .stop s' => s'
  | .go c' s' => (gateAndEmit c' o s').state

/-- TRANSFORM_STEP for RESET (R126): steps 1 to 3, then step 4 if it was emitted. -/
def transformReset (c : Command) (o : Word) (s : State) : State :=
  match adjust c o s with
  | .stop s' => s'
  | .go c' s' =>
    match gateAndEmit c' o s' with
    | .stop s'' => s''
    | .go _ s'' =>
      match c'.payload with
      | [] => s''
      | f :: _ => handleReset f o s''

/-- TRANSFORM_END (R165): the trailer if it is configured, then DONE. -/
def transformEnd (s : State) : State :=
  if trailerConfigured s then
    match emitFillers s.inLen trailerCount (s.lastFrame.toNat + 1) s with
    | .stop s' => s'
    | .go _ s' => finishRun s'
  else finishRun s

/-- ENCODE_STEP with record `c` (R194): EMIT with the record's index as information word, then count it. -/
def encodeRecord (c : Command) (s : State) : State :=
  match emit c s.cmdCount s with
  | .stop s' => s'
  | .go _ s' => countEncoded s'

/-- A packet command in the mode of the run: TRANSFORM does `transform` with the packet's offset after DECODE_NEXT's
bookkeeping, DECODE delivers the record (R195), ENCODE encodes it (R194). Outside a run the FRAMER has no step (R200;
log entry 18). -/
def runCommand (c : Command) (transform : Command → Word → State → State) (s : State) :
    Host.Outcome State Fault Refusal :=
  match s.phase with
  | .running =>
    match s.mode with
    | .transform => .next (transform c s.inOffset (advance c s))
    | .decode => .next (deliver c (advance c s))
    | .encode => .next (encodeRecord c s)
    | .none => .fault .runningWithoutMode
  | .idle => .next s
  | .done => .next s
  | .error => .next s

end Sys2Proof.Machine
end

