-- ==== Sys2Proof/Machine/Commands.lean ====
section
/-! DEFINITION. The meanings of the nine packet commands (spec/41_commands.md R120 to R129). -/

namespace Sys2Proof.Machine

/-- INPUT (R120): frame-bearing. -/
def execInput (payload : List Word) (extra : List Byte) (s : State) : Host.Outcome State Fault Refusal :=
  runCommand ⟨opInput, payload, extra⟩ transformFrame s

/-- NOINPUT (R121): frame-bearing. -/
def execNoinput (payload : List Word) (extra : List Byte) (s : State) : Host.Outcome State Fault Refusal :=
  runCommand ⟨opNoinput, payload, extra⟩ transformFrame s

/-- INFO (R122): not frame-bearing; gate and emission only. -/
def execInfo (payload : List Word) (extra : List Byte) (s : State) : Host.Outcome State Fault Refusal :=
  runCommand ⟨opInfo, payload, extra⟩ transformPlain s

/-- MODE (R123): frame-bearing. -/
def execMode (payload : List Word) (extra : List Byte) (s : State) : Host.Outcome State Fault Refusal :=
  runCommand ⟨opMode, payload, extra⟩ transformFrame s

/-- CRC (R124): frame-bearing; no checksum is computed. -/
def execCrc (payload : List Word) (extra : List Byte) (s : State) : Host.Outcome State Fault Refusal :=
  runCommand ⟨opCrc, payload, extra⟩ transformFrame s

/-- LOAD_SAVESTATE (R125): frame-bearing; it does not trigger step 4. -/
def execLoadSavestate (payload : List Word) (extra : List Byte) (s : State) : Host.Outcome State Fault Refusal :=
  runCommand ⟨opLoadSavestate, payload, extra⟩ transformFrame s

/-- RESET (R126): frame-bearing, the gate trigger and the delay trigger. -/
def execReset (payload : List Word) (extra : List Byte) (s : State) : Host.Outcome State Fault Refusal :=
  runCommand ⟨opReset, payload, extra⟩ transformReset s

/-- FLIP_PLAYERS (R127): frame-bearing; no player is renumbered. -/
def execFlipPlayers (payload : List Word) (extra : List Byte) (s : State) : Host.Outcome State Fault Refusal :=
  runCommand ⟨opFlipPlayers, payload, extra⟩ transformFrame s

/-- UNKNOWN (R128): passed through with its own opcode; gate and emission only. -/
def execUnknown (opcode : Word) (payload : List Word) (extra : List Byte) (s : State) :
    Host.Outcome State Fault Refusal :=
  runCommand ⟨opcode, payload, extra⟩ transformPlain s

end Sys2Proof.Machine
end

