-- ==== Sys2Proof/Machine/Control.lean ====
section
/-! DEFINITION. The meanings of the four CTRL commands (spec/43_host_control.md R191 to R195). -/

namespace Sys2Proof.Machine

/-- A start command: `START(mode)` in a phase other than RUNNING, ignored while RUNNING (R191, R192). -/
def startUnlessRunning (m : Mode) (s : State) : State :=
  match s.phase with
  | .running => s
  | .idle => startRun m s
  | .done => startRun m s
  | .error => startRun m s

/-- CTRL_NOP (R191): no effect. -/
def execCtrlNop (s : State) : Host.Outcome State Fault Refusal :=
  .next s

/-- START_TRANSFORM (R193). -/
def execStartTransform (s : State) : Host.Outcome State Fault Refusal :=
  .next (startUnlessRunning .transform s)

/-- START_ENCODE (R194). -/
def execStartEncode (s : State) : Host.Outcome State Fault Refusal :=
  .next (startUnlessRunning .encode s)

/-- START_DECODE (R195). -/
def execStartDecode (s : State) : Host.Outcome State Fault Refusal :=
  .next (startUnlessRunning .decode s)

end Sys2Proof.Machine
end

