-- ==== Sys2Proof/Machine/Dispatch.lean ====
section
/-! DEFINITION. One arm per instruction. -/

namespace Sys2Proof.Machine

def exec (i : Instr) (s : State) : Host.Outcome State Fault Refusal :=
  match i with
  | .input payload extra => Sys2Proof.Machine.execInput payload extra s
  | .noinput payload extra => Sys2Proof.Machine.execNoinput payload extra s
  | .info payload extra => Sys2Proof.Machine.execInfo payload extra s
  | .mode payload extra => Sys2Proof.Machine.execMode payload extra s
  | .crc payload extra => Sys2Proof.Machine.execCrc payload extra s
  | .loadSavestate payload extra => Sys2Proof.Machine.execLoadSavestate payload extra s
  | .reset payload extra => Sys2Proof.Machine.execReset payload extra s
  | .flipPlayers payload extra => Sys2Proof.Machine.execFlipPlayers payload extra s
  | .unknown opcode payload extra => Sys2Proof.Machine.execUnknown opcode payload extra s
  | .ctrlNop _ => Sys2Proof.Machine.execCtrlNop s
  | .startTransform _ => Sys2Proof.Machine.execStartTransform s
  | .startEncode _ => Sys2Proof.Machine.execStartEncode s
  | .startDecode _ => Sys2Proof.Machine.execStartDecode s

end Sys2Proof.Machine
end

