-- ==== Sys2Proof/Machine/HostOps.lean ====
section
/-! DEFINITION. The host's operations (spec/43_host_control.md R190 to R197, R206, R208; spec/70_reset_and_hazards.md
R250, R253). -/

namespace Sys2Proof.Machine

/-- `RegRead(idx)` (R190). -/
def regRead (idx : Fin 16) (s : State) : Word :=
  match regOfIndex idx with
  | .ctrl => 0
  | .status => statusWord s
  | .errInfo => s.errInfo
  | .cfgDelay => s.cfgDelay
  | .cfgFlags => s.cfgFlags.zeroExtend 32
  | .inLen => s.inLen
  | .inOffset => s.inOffset
  | .outLen => s.outLen
  | .delayLo => s.delay.extractLsb' 0 32
  | .delayHi => s.delay.extractLsb' 32 32
  | .floor => s.floor
  | .gateOpen => if s.gateOpen then 1 else 0
  | .lastFrame => s.lastFrame
  | .cmdCount => s.cmdCount
  | .reserved14 => 0
  | .reserved15 => 0

/-- A write to a configuration register: stored in a phase other than RUNNING, ignored while RUNNING (R37). -/
def storeUnlessRunning (store : State → State) (s : State) : State :=
  match s.phase with
  | .running => s
  | .idle => store s
  | .done => store s
  | .error => store s

/-- `R.CFG_DELAY <- v`. -/
def storeCfgDelay (v : Word) (s : State) : State :=
  { s with cfgDelay := v }

/-- `R.CFG_FLAGS <- v[1:0]`. -/
def storeCfgFlags (v : Word) (s : State) : State :=
  { s with cfgFlags := v.extractLsb' 0 2 }

/-- `R.IN_LEN <- v`. -/
def storeInLen (v : Word) (s : State) : State :=
  { s with inLen := v }

/-- `RegWrite(idx, v)` (R191, R36, R37): a CTRL write runs the command in it. -/
def regWrite (idx : Fin 16) (v : Word) (s : State) : Host.Outcome State Fault Refusal :=
  match regOfIndex idx with
  | .ctrl => exec (decodeCtrl v) s
  | .cfgDelay => .next (storeUnlessRunning (storeCfgDelay v) s)
  | .cfgFlags => .next (storeUnlessRunning (storeCfgFlags v) s)
  | .inLen => .next (storeUnlessRunning (storeInLen v) s)
  | .status => .next s
  | .errInfo => .next s
  | .inOffset => .next s
  | .outLen => .next s
  | .delayLo => .next s
  | .delayHi => .next s
  | .floor => .next s
  | .gateOpen => .next s
  | .lastFrame => .next s
  | .cmdCount => .next s
  | .reserved14 => .next s
  | .reserved15 => .next s

/-- `IN <- s; R.IN_LEN <- len(s)` (R196). -/
def storeIn (bytes : List Byte) (s : State) : State :=
  { s with inMem := Memory.load 0 bytes, inLen := BitVec.ofNat 32 bytes.length }

/-- `CMD_IN <- l` (R197). -/
def storeCmdIn (records : List Command) (s : State) : State :=
  { s with cmdIn := records }

/-- LoadIn(s) (R196), for which there is no host move while RUNNING (R206). Log entry 11. -/
def loadIn (bytes : List Byte) (s : State) : Host.Outcome State Fault Refusal :=
  if s.phase = .running then .refused .noHostMove
  else if 2 ^ 32 - 1 < bytes.length then .refused .loadTooLong
  else .next (storeIn bytes s)

/-- SetCmdIn(l) (R197), for which there is no host move while RUNNING (R206). Log entry 11. -/
def setCmdIn (records : List Command) (s : State) : Host.Outcome State Fault Refusal :=
  if s.phase = .running then .refused .noHostMove
  else .next (storeCmdIn records s)

/-- `OutRead(i)` (R197): 0 at or past OUT_LEN. -/
def outRead (i : Nat) (s : State) : Byte :=
  if i < s.outLen.toNat then s.out[i]?.getD 0 else 0

/-- `CmdOutRead(i)` (R197): no command past the end. -/
def cmdOutRead (i : Nat) (s : State) : Option Command :=
  s.cmdOut[i]?

/-- One host operation. A read changes nothing but what the host has been handed (R37, R197). -/
def hostStep (op : HostOp) (s : State) : Host.Outcome State Fault Refusal :=
  match op with
  | .regRead idx => .next (addReply (.word (regRead idx s)) s)
  | .regWrite idx v => regWrite idx v s
  | .loadIn bytes => loadIn bytes s
  | .setCmdIn records => setCmdIn records s
  | .outRead i => .next (addReply (.byte (outRead i s)) s)
  | .cmdOutRead i => .next (addReply (.command (cmdOutRead i s)) s)
  | .hardReset => .next (hardReset s)

/-- The host's turns that start a TRANSFORM run of a stream (R253, steps 2 to 5), which the source's tool asks for
with `-d N`, `-r` and `-t` (R208). -/
def transformTurns (input : List Byte) (n : Word) (r t : Bool) : List Turn :=
  [.host (.regWrite 3 n),
   .host (.regWrite 4 (BitVec.ofNat 32 ((if r then 1 else 0) + 2 * (if t then 1 else 0)))),
   .host (.loadIn input),
   .host (.regWrite 0 1)]

end Sys2Proof.Machine
end

