-- ==== Sys2Proof/Machine/Framer.lean ====
section
/-! DEFINITION. The FRAMER's step: fetching the next packet from IN and running it (spec/40_codec.md R100 to R104;
spec/42_transform.md R151; spec/43_host_control.md R194, R195, R200), and the table's words put where it fetches. -/

namespace Sys2Proof.Machine

/-- What DECODE_AT finds at IN_OFFSET, with the count of draws after its reads. -/
inductive Fetched where
  | endOfStream
  | truncatedHeader
  | truncatedPayload (draws : Nat)
  | packet (opcode : Word) (body : List Byte) (draws : Nat)
  deriving DecidableEq, Repr

/-- DECODE_AT(IN_OFFSET) up to the bytes of the packet (R100 to R103): the size word is read first, then the opcode
word, then the payload section in stream order. -/
def fetch (s : State) : Fetched :=
  let o := s.inOffset.toNat
  let n := s.inLen.toNat
  if n ≤ o then .endOfStream
  else if n - o < 8 then .truncatedHeader
  else
    let (size, draws) := readWord s.inMem (o + 4) s.draws
    if n - o - 8 < size.toNat then .truncatedPayload draws
    else
      let (opcode, draws) := readWord s.inMem o draws
      let (body, draws) := readBytes s.inMem (o + 8) size.toNat draws
      .packet opcode body draws

/-- A step that decodes from IN (TRANSFORM_STEP, DECODE_STEP), with `atEnd` for the end of the stream. A truncation is
raised with the packet's offset, and IN_OFFSET and CMD_COUNT stay (R101, R104). -/
def fetchStep (atEnd : State → State) (s : State) : Host.Outcome State Fault Refusal :=
  match fetch s with
  | .endOfStream => .next (atEnd s)
  | .truncatedHeader => .next (raise .truncHeader s.inOffset s)
  | .truncatedPayload draws => .next (raise .truncPayload s.inOffset (setDraws draws s))
  | .packet opcode body draws => exec (decodePacket opcode body) (setDraws draws s)

/-- ENCODE_STEP (R194): the record at CMD_COUNT, or the end of the run. -/
def encodeStep (s : State) : Host.Outcome State Fault Refusal :=
  if s.cmdCount.toNat = s.cmdIn.length then .next (finishRun s)
  else
    match s.cmdIn[s.cmdCount.toNat]? with
    | some c => exec (instrOfCommand c) s
    | none => .fault .cmdCountPastEnd

/-- The FRAMER's turn (R200): a step while RUNNING, and none in the other phases (R239). -/
def framerStep (s : State) : Host.Outcome State Fault Refusal :=
  match s.phase with
  | .running =>
    match s.mode with
    | .transform => fetchStep transformEnd s
    | .decode => fetchStep finishRun s
    | .encode => encodeStep s
    | .none => .fault .runningWithoutMode
  | .idle => .next s
  | .done => .next s
  | .error => .next s

/-- One turn (R226; log entry 3). -/
def turnStep (s : State) : Host.Outcome State Fault Refusal :=
  match s.schedule with
  | [] => framerStep s
  | .framer :: rest => framerStep (setSchedule rest s)
  | .host op :: rest => hostStep op (setSchedule rest s)

/-! ### The table's words (log entries 1 and 2) -/

/-- Is the machine in a run that decodes from IN? -/
def isFetching (s : State) : Bool :=
  s.phase = .running && (s.mode = .transform || s.mode = .decode)

/-- Bytes put at IN_OFFSET of a run that decodes from IN, with IN_LEN past them (at 0, if they would not fit below
2^32 - 1), and the FRAMER's turn. -/
def placeBytes (bytes : List Byte) (s : State) : State :=
  let o := if s.inOffset.toNat + bytes.length ≤ 2 ^ 32 - 1 then s.inOffset else 0
  { s with
    inOffset := o
    inMem := Memory.writeBytes s.inMem o.toNat bytes
    inLen := if s.inLen.toNat ≤ o.toNat + bytes.length then BitVec.ofNat 32 (o.toNat + bytes.length) else s.inLen
    schedule := .framer :: s.schedule }

/-- Make the very next step fetch and run the instruction of a table word: a CTRL word becomes the host's next
operation, a packet stands at IN_OFFSET of a run (a START_TRANSFORM's, unless one that decodes from IN is on). -/
def placeTableWord (nbits w : Nat) (s : State) : State :=
  match tableCode nbits w with
  | .ctrl v => setSchedule (.host (.regWrite 0 v) :: s.schedule) s
  | .stream bytes => placeBytes bytes (if isFetching s then s else startRun .transform s)

end Sys2Proof.Machine
end

