-- ==== Sys2Proof/Machine/Step.lean ====
section
/-! DEFINITION. One step of the machine: one turn of the host or of the FRAMER (spec/43_host_control.md R200). -/

namespace Sys2Proof.Machine

/-- One atomic step (R21, R226). -/
def step (s : State) : Host.Outcome State Fault Refusal :=
  turnStep s

/-- The state whose next step fetches and runs the instruction of the table word `w` (log entry 2). -/
def State.withFetchWord (s : State) (nbits w : Nat) : State :=
  placeTableWord nbits w s

end Sys2Proof.Machine
end

