-- ==== Sys2Proof/WellFormed.lean ====
section
/-! DEFINITION. The bounds of a well-formed instruction (spec/10_state.md R40; spec/30_encoding.md R82, R85;
spec/40_codec.md R106): at most 3 extra bytes, a payload section whose size is a u32, and an UNKNOWN opcode that is
not a known one. -/

namespace Sys2Proof

/-- R40, R106: the bounds a command record must meet to have a packet. -/
def wellFormedCommand (c : Command) : Bool :=
  c.extra.length ≤ 3 && payloadSize c ≤ 2 ^ 32 - 1

/-- R85, R128: UNKNOWN is "every other opcode value". -/
def isUnknownOpcode (op : Word) : Bool :=
  !knownOpcodes.contains op

/-- A well-formed instruction: its record keeps R40's bounds, and it stands under the right name. -/
def WellFormed : Instr → Bool
  | .input p x         => wellFormedCommand ⟨opInput, p, x⟩
  | .noinput p x       => wellFormedCommand ⟨opNoinput, p, x⟩
  | .info p x          => wellFormedCommand ⟨opInfo, p, x⟩
  | .mode p x          => wellFormedCommand ⟨opMode, p, x⟩
  | .crc p x           => wellFormedCommand ⟨opCrc, p, x⟩
  | .loadSavestate p x => wellFormedCommand ⟨opLoadSavestate, p, x⟩
  | .reset p x         => wellFormedCommand ⟨opReset, p, x⟩
  | .flipPlayers p x   => wellFormedCommand ⟨opFlipPlayers, p, x⟩
  | .unknown op p x    => isUnknownOpcode op && wellFormedCommand ⟨op, p, x⟩
  | .ctrlNop _         => true
  | .startTransform _  => true
  | .startEncode _     => true
  | .startDecode _     => true

end Sys2Proof
end

