-- ==== Sys2Proof/Safety.lean ====
section
/-! DEFINITION. What counts as a good state and a good run (spec/10_state.md R25, R26, R30, R46;
spec/43_host_control.md R201, R206; spec/70_reset_and_hazards.md R264), in the terms the statements use. -/

namespace Sys2Proof.Machine

/-! ### Results (R201, R264) -/

/-- A run has ended (R201). -/
def runEnded (s : State) : Bool :=
  s.phase = .done || s.phase = .error

/-- The stream a TRANSFORM or ENCODE run produced; none unless it ended in DONE (R201, R264). -/
def streamResult (s : State) : Option (List Byte) :=
  if s.phase = .done ∧ (s.mode = .transform ∨ s.mode = .encode) then some (s.out.take s.outLen.toNat) else none

/-- The records a DECODE run produced; none unless it ended in DONE (R201, R264). -/
def recordResult (s : State) : Option (List Command) :=
  if s.phase = .done ∧ s.mode = .decode then some s.cmdOut else none

/-! ### The host's duties (R206, R196) -/

/-- The next turn is one the host has a move for: no LoadIn or SetCmdIn while RUNNING, no LoadIn over 2^32 - 1 bytes. -/
def dutyKept (s : State) : Bool :=
  match s.schedule with
  | .host (.loadIn bytes) :: _ => s.phase ≠ .running && bytes.length ≤ 2 ^ 32 - 1
  | .host (.setCmdIn _) :: _ => s.phase ≠ .running
  | _ => true

/-! ### Good states -/

/-- The parts of a good state that say what run-state registers hold in the modes that do not use them (R24, R28,
R195, R42): the transform's registers stay 0 outside TRANSFORM, IN_OFFSET stays 0 in ENCODE, OUT stays empty in
DECODE, CMD_OUT outside it. -/
structure ModeRegisters (s : State) : Prop where
  transformOnly : s.mode ≠ .transform → s.delay = 0 ∧ s.floor = 0 ∧ s.gateOpen = false ∧ s.lastFrame = 0
  encodeOffset  : s.mode = .encode → s.inOffset = 0
  decodeOut     : s.mode = .decode → s.out = []
  recordsOnly   : s.mode ≠ .decode → s.cmdOut = []

/-- What holds of every state a run can reach. -/
structure Good (s : State) : Prop where
  /-- IN keeps its canonical form. -/
  memWf      : Memory.wf s.inMem
  /-- IN's addresses lie below 2^32 - 1 (R29, R60). -/
  memBound   : ∀ c ∈ s.inMem, c.1 < 2 ^ 32 - 1
  /-- OUT_LEN is the length of OUT (R30, R61). -/
  outLen     : s.outLen.toNat = s.out.length
  /-- OUT_LEN never exceeds OUT_CAP (R30). -/
  outCap     : s.outLen.toNat ≤ s.outCap.toNat
  /-- ERR_CODE ≠ 0 exactly when PHASE = ERROR (R25). -/
  errCode    : s.errCode ≠ .none ↔ s.phase = .error
  /-- ERR_INFO is 0 until an error (R26). -/
  errInfo    : s.phase ≠ .error → s.errInfo = 0
  /-- MODE is NONE exactly before the first start (R25, R192, R250). -/
  modeNone   : s.mode = .none ↔ s.phase = .idle
  /-- IN_OFFSET never exceeds IN_LEN while packets are decoded (R24, R104). -/
  offset     : s.phase = .running → s.mode ≠ .encode → s.inOffset.toNat ≤ s.inLen.toNat
  /-- Every decoded packet moved IN_OFFSET by at least 8 (R104). -/
  progress   : s.mode ≠ .encode → 8 * s.cmdCount.toNat ≤ s.inOffset.toNat
  /-- CMD_COUNT indexes CMD_IN, or is its end, in an ENCODE run (R194). -/
  encodePos  : s.phase = .running → s.mode = .encode → s.cmdCount.toNat ≤ s.cmdIn.length
  /-- Every encoded record put at least 8 bytes into OUT (R194). -/
  encoded    : s.mode = .encode → 8 * s.cmdCount.toNat ≤ s.outLen.toNat
  /-- FLOOR ≤ LAST_FRAME (R46). -/
  floorLast  : s.floor.toNat ≤ s.lastFrame.toNat
  /-- What the modes leave alone. -/
  modeRegs   : ModeRegisters s

/-! ### The account of a TRANSFORM run (R46, R68, R107) -/

/-- The concatenation of the encodings of commands, in order; none if one of them has none (R68). -/
def encodeAll (policy : ExtraPolicy) : List Command → Option (List Byte)
  | [] => some []
  | c :: cs =>
    match encodeCommand policy c, encodeAll policy cs with
    | .ok bytes, some rest => some (bytes ++ rest)
    | .ok _, none => none
    | .error _, _ => none

/-- How many of the commands are RESETs. -/
def resetCount (cs : List Command) : Nat :=
  cs.countP fun c => c.opcode = opReset

/-- The account of the latest TRANSFORM run, for commands `cs` that it emitted, in order, `n` of them RESETs: OUT is
their concatenated encodings, whether the run is on or has ended in DONE (R68) or ERROR (R107, R230); each RESET came
from a packet of at least 12 bytes; DELAY ≠ 0 needs one of them (R46). GATE_OPEN needs one too, but after an error,
which may have kept the RESET from being emitted. While the run is on, so that the host cannot have written the
configuration since, DELAY = n · D, and GATE_OPEN needs GATE (R46). -/
structure Accounts (cs : List Command) (s : State) : Prop where
  out        : encodeAll (policyInForce s) cs = some s.out
  offset     : 12 * resetCount cs ≤ s.inOffset.toNat
  delayed    : s.delay ≠ 0 → 0 < resetCount cs
  opened     : s.phase ≠ .error → s.gateOpen = true → 0 < resetCount cs
  delay      : s.phase = .running → s.delay.toInt = resetCount cs * delayPerReset s
  configured : s.phase = .running → s.gateOpen = true → gateConfigured s = true

/-- Some commands account for the latest TRANSFORM run. -/
def TransformAccount (s : State) : Prop :=
  s.mode = .transform → ∃ cs : List Command, Accounts cs s

end Sys2Proof.Machine
end

