-- ==== Sys2Proof/Certificates/Slice0/Obligations.lean ====
section
/-! DEFINITION. The statements about the model. Each docstring names the rules of spec/ it formalises. The helpers
before them say in the statements' own terms what the rules repeat. -/

namespace Sys2Proof.Machine

/-! ### The statements' own terms -/

/-- The frame-bearing commands other than RESET, each with its opcode word (R85). -/
def frameForms (p : List Word) (x : List Byte) : List (Instr × Word) :=
  [(.input p x, 0x03), (.noinput p x, 0x04), (.mode p x, 0x26), (.crc p x, 0x40), (.loadSavestate p x, 0x42),
   (.flipPlayers p x, 0x60)]

/-- The commands without frame semantics, INFO and UNKNOWN `n` (R85). -/
def plainForms (n : Word) (p : List Word) (x : List Byte) : List (Instr × Word) :=
  [(.info p x, 0x22), (.unknown n p x, n)]

/-- All nine packet commands. -/
def packetForms (n : Word) (p : List Word) (x : List Byte) : List (Instr × Word) :=
  frameForms p x ++ (.reset p x, 0x46) :: plainForms n p x

/-- The bytes R106 gives a command with opcode word `op`: the header with size 4k + e, the words, and the extra bytes
unless the policy is OmitLiteral. -/
def wireBytes (policy : ExtraPolicy) (op : Word) (p : List Word) (x : List Byte) : List Byte :=
  bytes32 op ++ bytes32 (BitVec.ofNat 32 (4 * p.length + x.length)) ++ p.flatMap bytes32 ++
    (if policy = .omitLiteral then [] else x)

/-- The bytes of INPUT(f, 0, 0, 0, 0), INPUT(f + 1, 0, 0, 0, 0), …, `n` of them (R89, R160). -/
def fillersFrom (f n : Nat) : List Byte :=
  (List.range n).flatMap fun i => wireBytes .emit 0x03 [BitVec.ofNat 32 (f + i), 0, 0, 0, 0] []

/-- EXTRA_POLICY does not stand in the way of a command with these extra bytes (R106). -/
def encodable (s : State) (x : List Byte) : Prop :=
  x = [] ∨ policyInForce s ≠ .fault

/-- GATE = 0 or GATE_OPEN = 1 (R157). -/
def gatePasses (s : State) : Prop :=
  s.cfgFlags.getLsbD 0 = false ∨ s.gateOpen = true

/-- RUNNING in a mode (R200). -/
def runningIn (m : Mode) (s : State) : Prop :=
  s.phase = .running ∧ s.mode = m

/-- DECODE_NEXT's writes for a packet of `n` bytes (R104). -/
def pastPacket (n : Nat) (s : State) : State :=
  { s with inOffset := s.inOffset + BitVec.ofNat 32 n, cmdCount := s.cmdCount + 1 }

/-- `bytes` appended to OUT (R10, R107). -/
def sent (bytes : List Byte) (s : State) : State :=
  { s with out := s.out ++ bytes, outLen := s.outLen + BitVec.ofNat 32 bytes.length }

/-- `bytes` fit below OUT_CAP (R107). -/
def fits (bytes : List Byte) (s : State) : Prop :=
  s.outLen.toNat + bytes.length ≤ s.outCap.toNat

/-- Error entry's writes (R230). -/
def failed (e : ErrCode) (info : Word) (s : State) : State :=
  { s with errCode := e, errInfo := info, phase := .error }

/-- A kept RESET with adjusted frame `f` up to its emission (R126): LAST_FRAME, and GATE_OPEN where GATE = 1. -/
def resetKept (f : Word) (s : State) : State :=
  { s with lastFrame := f, gateOpen := s.gateOpen || s.cfgFlags.getLsbD 0 }

/-- The next turn is the FRAMER's. -/
def framersTurn (s : State) : Prop :=
  ∀ op rest, s.schedule ≠ .host op :: rest

/-- The turn taken off the schedule. -/
def afterTurn (s : State) : State :=
  { s with schedule := s.schedule.tail }

/-- `frame + DELAY` in ℤ (R154). -/
def adjustsTo (s : State) (w : Word) (f : Int) : Prop :=
  f = (w.toNat : Int) + s.delay.toInt

/-- IN holds `bytes` at address `a` (R60). -/
def inHolds (s : State) (a : Nat) (bytes : List Byte) : Prop :=
  ∀ k, k < bytes.length → Memory.read s.inMem (a + k) = bytes[k]?

/-- How many of the addresses hold no loaded byte of IN: each read of one is a draw (R196). -/
def unloaded (s : State) (addrs : List Nat) : Nat :=
  addrs.countP fun a => (Memory.read s.inMem a).isNone

/-- What reading IN at the addresses, in their order, gives: each byte as loaded, or else the draw numbered by the draws
before it, those of earlier steps and those of this one (R196; their form is the model's choice: log entry 6). -/
def readInOrder (s : State) (addrs : List Nat) : List Byte :=
  addrs.zipIdx.map fun (a, i) =>
    (Memory.read s.inMem a).getD (Config.freeByte (s.draws + unloaded s (addrs.take i)))

/-- The addresses of the size word of the packet at IN_OFFSET (R101). -/
def sizeAddrs (s : State) : List Nat :=
  [4, 5, 6, 7].map (s.inOffset.toNat + ·)

/-- The addresses that decoding a packet with `n` payload bytes reads, in order: the size word, the opcode word, the
payload section (R101 to R103; the order is the model's reading of the pseudocode: log entry 6). -/
def packetAddrs (n : Nat) (s : State) : List Nat :=
  sizeAddrs s ++ (List.range 4).map (s.inOffset.toNat + ·) ++ (List.range n).map (s.inOffset.toNat + 8 + ·)

/-- The bytes of that packet in stream order, as those reads give them. -/
def packetRead (n : Nat) (s : State) : List Byte :=
  let bytes := readInOrder s (packetAddrs n s)
  (bytes.drop 4).take 4 ++ bytes.take 4 ++ bytes.drop 8

/-- The state with the draws of reads at the addresses counted (the model's own field: log entry 6). -/
def afterReads (addrs : List Nat) (s : State) : State :=
  { s with draws := s.draws + unloaded s addrs }

/-- The frame of the last frame-bearing command, 0 if there is none (R167). -/
def lastFrameOf (cs : List Command) : Word :=
  cs.foldl (fun f c => if isFrameBearing c.opcode then c.payload.headD 0 else f) 0

end Sys2Proof.Machine

open Sys2Proof Sys2Proof.Machine

/-! ### Packet commands in TRANSFORM mode (R120 to R128, R151 to R164) -/

/-- R120, R121, R123, R124, R125, R127 (R154, R155, R158): INPUT, NOINPUT, MODE, CRC, LOAD_SAVESTATE and FLIP_PLAYERS
with a frame word whose adjusted frame is kept complete: emitted with only word 0 changed, LAST_FRAME set, every other
field unchanged. -/
def Obligations.FrameCommandEmitted : Prop :=
  ∀ (w : Word) (ws : List Word) (x : List Byte) (i : Instr) (op f : Word) (s : State),
    (i, op) ∈ frameForms (w :: ws) x → WellFormed i = true → runningIn .transform s →
    adjustsTo s w f.toNat → s.floor.toNat ≤ f.toNat → gatePasses s → encodable s x →
    fits (wireBytes (policyInForce s) op (f :: ws) x) s →
    exec i s = .next (sent (wireBytes (policyInForce s) op (f :: ws) x)
      { pastPacket (8 + 4 * (ws.length + 1) + x.length) s with lastFrame := f })

/-- R122, R128 (R163): INFO and UNKNOWN complete: emitted as decoded, LAST_FRAME and all else unchanged. -/
def Obligations.PlainCommandEmitted : Prop :=
  ∀ (n : Word) (p : List Word) (x : List Byte) (i : Instr) (op : Word) (s : State),
    (i, op) ∈ plainForms n p x → WellFormed i = true → runningIn .transform s → gatePasses s → encodable s x →
    fits (wireBytes (policyInForce s) op p x) s →
    exec i s = .next (sent (wireBytes (policyInForce s) op p x) (pastPacket (8 + 4 * p.length + x.length) s))

/-- R126, R159: a kept RESET with D = 0 completes: emitted, LAST_FRAME set, the gate opened where GATE = 1, DELAY and
FLOOR unchanged. -/
def Obligations.ResetEmittedWithoutDelay : Prop :=
  ∀ (w : Word) (ws : List Word) (x : List Byte) (f : Word) (s : State),
    WellFormed (.reset (w :: ws) x) = true → runningIn .transform s → s.cfgDelay = 0 →
    adjustsTo s w f.toNat → s.floor.toNat ≤ f.toNat → encodable s x →
    fits (wireBytes (policyInForce s) 0x46 (f :: ws) x) s →
    exec (.reset (w :: ws) x) s = .next (sent (wireBytes (policyInForce s) 0x46 (f :: ws) x)
      (resetKept f (pastPacket (8 + 4 * (ws.length + 1) + x.length) s)))

/-- R126, R160, R161, R162: a kept RESET with D ≠ 0 completes: its packet, then max(D, 0) fillers from its own frame
on, then DELAY grows by D (also where D < 0) and FLOOR is its frame. -/
def Obligations.ResetEmittedWithFillers : Prop :=
  ∀ (w : Word) (ws : List Word) (x : List Byte) (f : Word) (s : State),
    WellFormed (.reset (w :: ws) x) = true → runningIn .transform s → s.cfgDelay ≠ 0 →
    adjustsTo s w f.toNat → s.floor.toNat ≤ f.toNat → encodable s x →
    f.toNat + s.cfgDelay.toInt.toNat ≤ 2 ^ 32 →
    fits (wireBytes (policyInForce s) 0x46 (f :: ws) x ++ fillersFrom f.toNat s.cfgDelay.toInt.toNat) s →
    exec (.reset (w :: ws) x) s = .next
      { sent (wireBytes (policyInForce s) 0x46 (f :: ws) x ++ fillersFrom f.toNat s.cfgDelay.toInt.toNat)
          (resetKept f (pastPacket (8 + 4 * (ws.length + 1) + x.length) s)) with
        delay := s.delay + s.cfgDelay.signExtend 64, floor := f }

/-- R160, D38: fillers that would pass frame 2^32 - 1: those up to it stand, E_FRAME_RANGE is raised with the RESET's
offset, and DELAY and FLOOR are not updated. -/
def Obligations.FillerRangeError : Prop :=
  ∀ (w : Word) (ws : List Word) (x : List Byte) (f : Word) (s : State),
    WellFormed (.reset (w :: ws) x) = true → runningIn .transform s →
    adjustsTo s w f.toNat → s.floor.toNat ≤ f.toNat → encodable s x →
    2 ^ 32 < f.toNat + s.cfgDelay.toInt.toNat →
    fits (wireBytes (policyInForce s) 0x46 (f :: ws) x ++ fillersFrom f.toNat (2 ^ 32 - f.toNat)) s →
    exec (.reset (w :: ws) x) s = .next (failed .frameRange s.inOffset
      (sent (wireBytes (policyInForce s) 0x46 (f :: ws) x ++ fillersFrom f.toNat (2 ^ 32 - f.toNat))
        (resetKept f (pastPacket (8 + 4 * (ws.length + 1) + x.length) s))))

/-- R107, R160, R225: fillers that stop fitting in OUT: the `m` that fit stand, E_OUT_OVERFLOW is raised with the RESET's
offset, and DELAY and FLOOR are not updated. -/
def Obligations.FillerOverflowError : Prop :=
  ∀ (w : Word) (ws : List Word) (x : List Byte) (f : Word) (m : Nat) (s : State),
    WellFormed (.reset (w :: ws) x) = true → runningIn .transform s →
    adjustsTo s w f.toNat → s.floor.toNat ≤ f.toNat → encodable s x →
    m < s.cfgDelay.toInt.toNat → f.toNat + m ≤ 2 ^ 32 - 1 →
    fits (wireBytes (policyInForce s) 0x46 (f :: ws) x ++ fillersFrom f.toNat m) s →
    ¬ fits (wireBytes (policyInForce s) 0x46 (f :: ws) x ++ fillersFrom f.toNat (m + 1)) s →
    exec (.reset (w :: ws) x) s = .next (failed .outOverflow s.inOffset
      (sent (wireBytes (policyInForce s) 0x46 (f :: ws) x ++ fillersFrom f.toNat m)
        (resetKept f (pastPacket (8 + 4 * (ws.length + 1) + x.length) s))))

/-- R155, R156: a frame-bearing command (RESET too) whose adjusted frame is strictly below FLOOR changes nothing but
IN_OFFSET and CMD_COUNT, whatever its extra bytes. -/
def Obligations.FloorDiscards : Prop :=
  ∀ (w : Word) (ws : List Word) (x : List Byte) (i : Instr) (op : Word) (s : State),
    (i, op) ∈ (Instr.reset (w :: ws) x, 0x46) :: frameForms (w :: ws) x → runningIn .transform s →
    (w.toNat : Int) + s.delay.toInt < s.floor.toNat →
    exec i s = .next (pastPacket (8 + 4 * (ws.length + 1) + x.length) s)

/-- R153: a frame-bearing command without a payload word raises E_NO_FRAME_WORD with its offset, before the gate. -/
def Obligations.NoFrameWordError : Prop :=
  ∀ (x : List Byte) (i : Instr) (op : Word) (s : State),
    (i, op) ∈ (Instr.reset [] x, 0x46) :: frameForms [] x → runningIn .transform s →
    exec i s = .next (failed .noFrameWord s.inOffset (pastPacket (8 + x.length) s))

/-- R155: a kept adjusted frame past 2^32 - 1 raises E_FRAME_RANGE with the packet's offset, before LAST_FRAME is
written and before the gate. -/
def Obligations.FrameRangeError : Prop :=
  ∀ (w : Word) (ws : List Word) (x : List Byte) (i : Instr) (op : Word) (s : State),
    (i, op) ∈ (Instr.reset (w :: ws) x, 0x46) :: frameForms (w :: ws) x → runningIn .transform s →
    2 ^ 32 - 1 < (w.toNat : Int) + s.delay.toInt →
    exec i s = .next (failed .frameRange s.inOffset (pastPacket (8 + 4 * (ws.length + 1) + x.length) s))

/-- R157, R156, R225: with GATE = 1 and the gate not open, every command but RESET is discarded without an error, even
one with extra bytes under Fault; a frame-bearing one has written LAST_FRAME. -/
def Obligations.ClosedGateDiscards : Prop :=
  ∀ (n w f : Word) (p ws : List Word) (x : List Byte) (i : Instr) (op : Word) (s : State),
    runningIn .transform s → s.cfgFlags.getLsbD 0 = true → s.gateOpen = false →
    ((i, op) ∈ frameForms (w :: ws) x → adjustsTo s w f.toNat → s.floor.toNat ≤ f.toNat →
      exec i s = .next { pastPacket (8 + 4 * (ws.length + 1) + x.length) s with lastFrame := f }) ∧
    ((i, op) ∈ plainForms n p x → WellFormed i = true →
      exec i s = .next (pastPacket (8 + 4 * p.length + x.length) s))

/-- R106, R158: a command that passes steps 1 and 2 with 1 to 3 extra bytes under Fault raises E_EXTRA_UNENCODABLE with
its offset; what steps 1 and 2 wrote stands (R230). -/
def Obligations.ExtraUnencodableError : Prop :=
  ∀ (n w f : Word) (p ws : List Word) (x : List Byte) (i : Instr) (op : Word) (s : State),
    WellFormed i = true → runningIn .transform s → x ≠ [] → policyInForce s = .fault →
    ((i, op) ∈ frameForms (w :: ws) x → adjustsTo s w f.toNat → s.floor.toNat ≤ f.toNat → gatePasses s →
      exec i s = .next (failed .extraUnencodable s.inOffset
        { pastPacket (8 + 4 * (ws.length + 1) + x.length) s with lastFrame := f })) ∧
    (i = .reset (w :: ws) x → adjustsTo s w f.toNat → s.floor.toNat ≤ f.toNat →
      exec i s = .next (failed .extraUnencodable s.inOffset
        (resetKept f (pastPacket (8 + 4 * (ws.length + 1) + x.length) s)))) ∧
    ((i, op) ∈ plainForms n p x → gatePasses s →
      exec i s = .next (failed .extraUnencodable s.inOffset (pastPacket (8 + 4 * p.length + x.length) s)))

/-- R107, R158: a command that passes steps 1 and 2 and whose packet does not fit in OUT raises E_OUT_OVERFLOW with its
offset and writes nothing of the packet. -/
def Obligations.OutOverflowError : Prop :=
  ∀ (n w f : Word) (p ws : List Word) (x : List Byte) (i : Instr) (op : Word) (s : State),
    WellFormed i = true → runningIn .transform s → encodable s x →
    ((i, op) ∈ frameForms (w :: ws) x → adjustsTo s w f.toNat → s.floor.toNat ≤ f.toNat → gatePasses s →
      ¬ fits (wireBytes (policyInForce s) op (f :: ws) x) s →
      exec i s = .next (failed .outOverflow s.inOffset
        { pastPacket (8 + 4 * (ws.length + 1) + x.length) s with lastFrame := f })) ∧
    (i = .reset (w :: ws) x → adjustsTo s w f.toNat → s.floor.toNat ≤ f.toNat →
      ¬ fits (wireBytes (policyInForce s) 0x46 (f :: ws) x) s →
      exec i s = .next (failed .outOverflow s.inOffset
        (resetKept f (pastPacket (8 + 4 * (ws.length + 1) + x.length) s)))) ∧
    ((i, op) ∈ plainForms n p x → gatePasses s → ¬ fits (wireBytes (policyInForce s) op p x) s →
      exec i s = .next (failed .outOverflow s.inOffset (pastPacket (8 + 4 * p.length + x.length) s)))

/-! ### Packet commands in DECODE and ENCODE mode (R129, R194, R195) -/

/-- R195, R129: in DECODE mode each of the nine packet commands is appended to CMD_OUT as it stands, and nothing else
changes but IN_OFFSET and CMD_COUNT. -/
def Obligations.DecodeModeDelivers : Prop :=
  ∀ (n : Word) (p : List Word) (x : List Byte) (i : Instr) (op : Word) (s : State),
    (i, op) ∈ packetForms n p x → runningIn .decode s →
    exec i s = .next { pastPacket (8 + 4 * p.length + x.length) s with cmdOut := s.cmdOut ++ [⟨op, p, x⟩] }

/-- R194, R129: in ENCODE mode each of the nine packet commands is encoded with its opcode unchanged, and nothing else
changes but OUT, OUT_LEN and CMD_COUNT. -/
def Obligations.EncodeModeEmits : Prop :=
  ∀ (n : Word) (p : List Word) (x : List Byte) (i : Instr) (op : Word) (s : State),
    (i, op) ∈ packetForms n p x → runningIn .encode s → x.length ≤ 3 → 4 * p.length + x.length ≤ 2 ^ 32 - 1 →
    encodable s x → fits (wireBytes (policyInForce s) op p x) s →
    exec i s = .next { sent (wireBytes (policyInForce s) op p x) s with cmdCount := s.cmdCount + 1 }

/-- R194, R106, R107, R225: in ENCODE mode a record that breaks the bounds raises E_CMD_INVALID, else one with extra
bytes under Fault E_EXTRA_UNENCODABLE, else one that does not fit E_OUT_OVERFLOW, each with CMD_COUNT as information
word and CMD_COUNT and OUT unchanged. -/
def Obligations.EncodeModeErrors : Prop :=
  ∀ (n : Word) (p : List Word) (x : List Byte) (i : Instr) (op : Word) (s : State),
    (i, op) ∈ packetForms n p x → runningIn .encode s →
    (3 < x.length ∨ 2 ^ 32 - 1 < 4 * p.length + x.length → exec i s = .next (failed .cmdInvalid s.cmdCount s)) ∧
    (x.length ≤ 3 → 4 * p.length + x.length ≤ 2 ^ 32 - 1 → x ≠ [] → policyInForce s = .fault →
      exec i s = .next (failed .extraUnencodable s.cmdCount s)) ∧
    (x.length ≤ 3 → 4 * p.length + x.length ≤ 2 ^ 32 - 1 → encodable s x →
      ¬ fits (wireBytes (policyInForce s) op p x) s → exec i s = .next (failed .outOverflow s.cmdCount s))

/-! ### CTRL commands (R93, R191 to R195) -/

/-- R93, R23: CTRL[1:0] selects the command and CTRL[31:2] are ignored: two CTRL words with the same low two bits do
the same in every state, and the four values select NOP and the three starts. -/
def Obligations.CtrlBitsSelect : Prop :=
  (∀ (v : Word) (s : State), exec (decodeCtrl v) s = exec (decodeCtrl (v &&& 3)) s) ∧
  decodeCtrl 0 = .ctrlNop 0 ∧ decodeCtrl 1 = .startTransform 0 ∧ decodeCtrl 2 = .startEncode 0 ∧
  decodeCtrl 3 = .startDecode 0

/-- R191: CTRL_NOP completes in every state and changes nothing. -/
def Obligations.CtrlNopKeepsState : Prop :=
  ∀ (r : BitVec 30) (s : State), exec (.ctrlNop r) s = .next s

/-- R192 (R193, R194, R195, R37): a start command in IDLE, DONE or ERROR completes: the run state at its START values,
PHASE RUNNING and MODE the started mode; configuration, IN_LEN, IN and CMD_IN unchanged. While RUNNING it has no
effect. -/
def Obligations.StartCommandsBegin : Prop :=
  ∀ (r : BitVec 30) (i : Instr) (m : Mode) (s : State),
    (i, m) ∈ [(Instr.startTransform r, Mode.transform), (.startEncode r, .encode), (.startDecode r, .decode)] →
    (s.phase ≠ .running → exec i s = .next { s with
      phase := .running, mode := m, errCode := .none, errInfo := 0, inOffset := 0, cmdCount := 0, out := [],
      outLen := 0, cmdOut := [], delay := 0, floor := 0, gateOpen := false, lastFrame := 0 }) ∧
    (s.phase = .running → exec i s = .next s)

/-! ### Steps (R100, R101, R104, R165, R194, R195, R200) -/

/-- R104, R151, R194, R195, R191: a step runs the instruction it decodes: the packet at IN_OFFSET below IN_LEN
(TRANSFORM, DECODE), the record at CMD_COUNT (ENCODE), the word the host writes to CTRL. The first clause is about a
packet whatever bytes of it are loaded: each that is not, of the header too, is a draw, and the step carries the count of
draws on (R196; their order and form are the model's choice: log entry 6). The second is about a packet all of whose
bytes are loaded. The step adds nothing else but taking its turn off the schedule (the model's own field: log entry
3). -/
def Obligations.StepRunsDecodedInstruction : Prop :=
  (∀ (n : Nat) (i : Instr) (s : State),
    framersTurn s → runningIn .transform s ∨ runningIn .decode s → s.inOffset.toNat + 8 + n ≤ s.inLen.toNat →
    decode (.stream (packetRead n s)) = .ok i [] →
    step s = exec i (afterTurn (afterReads (packetAddrs n s) s))) ∧
  (∀ (i : Instr) (bytes : List Byte) (s : State),
    framersTurn s → runningIn .transform s ∨ runningIn .decode s → WellFormed i = true → encode i = .stream bytes →
    s.inOffset.toNat + bytes.length ≤ s.inLen.toNat → inHolds s s.inOffset.toNat bytes →
    step s = exec i (afterTurn s)) ∧
  (∀ (c : Command) (s : State),
    framersTurn s → runningIn .encode s → s.cmdIn[s.cmdCount.toNat]? = some c →
    step s = exec (instrOfCommand c) (afterTurn s)) ∧
  (∀ (v : Word) (rest : List Turn) (s : State),
    s.schedule = .host (.regWrite 0 v) :: rest → step s = exec (decodeCtrl v) { s with schedule := rest })

/-- R101, R104: 1 to 7 bytes left raise E_TRUNC_HEADER with the offset, IN_OFFSET and CMD_COUNT unchanged. -/
def Obligations.TruncatedHeaderError : Prop :=
  ∀ s : State, framersTurn s → runningIn .transform s ∨ runningIn .decode s →
    s.inOffset.toNat < s.inLen.toNat → s.inLen.toNat < s.inOffset.toNat + 8 →
    step s = .next (failed .truncHeader s.inOffset (afterTurn s))

/-- R101, R104: a size word above the bytes left after the header raises E_TRUNC_PAYLOAD with the offset, IN_OFFSET and
CMD_COUNT unchanged. Each of its bytes that is not loaded is a draw, and the step carries the count of draws on (R196;
their order and form are the model's choice: log entry 6). -/
def Obligations.TruncatedPayloadError : Prop :=
  ∀ (b4 b5 b6 b7 : Byte) (s : State), framersTurn s → runningIn .transform s ∨ runningIn .decode s →
    s.inOffset.toNat + 8 ≤ s.inLen.toNat → readInOrder s (sizeAddrs s) = [b4, b5, b6, b7] →
    s.inLen.toNat - s.inOffset.toNat - 8 <
      b4.toNat * 2 ^ 24 + b5.toNat * 2 ^ 16 + b6.toNat * 2 ^ 8 + b7.toNat →
    step s = .next (failed .truncPayload s.inOffset (afterTurn (afterReads (sizeAddrs s) s)))

/-- R100, R165, R195, R194: at the end of the input a run without a trailer ends in DONE and changes nothing else. -/
def Obligations.EndOfInputIsDone : Prop :=
  ∀ s : State, framersTurn s →
    (runningIn .transform s ∧ s.cfgFlags.getLsbD 1 = false ∧ s.inLen.toNat ≤ s.inOffset.toNat) ∨
    (runningIn .decode s ∧ s.inLen.toNat ≤ s.inOffset.toNat) ∨
    (runningIn .encode s ∧ s.cmdCount.toNat = s.cmdIn.length) →
    step s = .next { afterTurn s with phase := .done }

/-- R165, R166, R171: with TRAILER = 1 the end of the stream appends exactly 60 fillers at LAST_FRAME + 1 on, whatever
the gate, and ends in DONE; LAST_FRAME is unchanged. -/
def Obligations.TrailerAppended : Prop :=
  ∀ s : State, framersTurn s → runningIn .transform s → s.cfgFlags.getLsbD 1 = true →
    s.inLen.toNat ≤ s.inOffset.toNat → s.lastFrame.toNat ≤ 2 ^ 32 - 61 → s.outLen.toNat + 1680 ≤ s.outCap.toNat →
    step s = .next { sent (fillersFrom (s.lastFrame.toNat + 1) 60) (afterTurn s) with phase := .done }

/-- R165, R222: a trailer that would pass frame 2^32 - 1, where its fillers up to that frame (none, if LAST_FRAME is
2^32 - 1) fit in OUT, stands up to it and raises E_FRAME_RANGE with IN_LEN. -/
def Obligations.TrailerRangeError : Prop :=
  ∀ s : State, framersTurn s → runningIn .transform s → s.cfgFlags.getLsbD 1 = true →
    s.inLen.toNat ≤ s.inOffset.toNat → 2 ^ 32 - 61 < s.lastFrame.toNat →
    s.outLen.toNat + 28 * (2 ^ 32 - 1 - s.lastFrame.toNat) ≤ s.outCap.toNat →
    step s = .next (failed .frameRange s.inLen
      (sent (fillersFrom (s.lastFrame.toNat + 1) (2 ^ 32 - 1 - s.lastFrame.toNat)) (afterTurn s)))

/-- R165, R107: a trailer that stops fitting in OUT stands up to there and raises E_OUT_OVERFLOW with IN_LEN. -/
def Obligations.TrailerOverflowError : Prop :=
  ∀ (m : Nat) (s : State), framersTurn s → runningIn .transform s → s.cfgFlags.getLsbD 1 = true →
    s.inLen.toNat ≤ s.inOffset.toNat → m < 60 → s.lastFrame.toNat + 1 + m ≤ 2 ^ 32 - 1 →
    s.outLen.toNat + 28 * m ≤ s.outCap.toNat → s.outCap.toNat < s.outLen.toNat + 28 * (m + 1) →
    step s = .next (failed .outOverflow s.inLen (sent (fillersFrom (s.lastFrame.toNat + 1) m) (afterTurn s)))

/-- Outside RUNNING the FRAMER has no step (R200, R239). That its turn there answers a next state all the same, with
nothing changed but the turn taken off the schedule, is the model's choice (log entry 3). -/
def Obligations.FramerRestsOutsideRun : Prop :=
  ∀ s : State, framersTurn s → s.phase ≠ .running → step s = .next (afterTurn s)

/-! ### Host operations (R190 to R197, R206, R250) -/

/-- RegRead hands back the value of R190's table (R22, R25, R36) and changes nothing else, in every phase. That the value
goes to the end of the list `replies` is the model's choice (log entry 12). -/
def Obligations.RegReadValues : Prop :=
  ∀ (idx : Fin 16) (rest : List Turn) (s : State), s.schedule = .host (.regRead idx) :: rest →
    ∃ v : Word, step s = .next { s with schedule := rest, replies := s.replies ++ [.word v] } ∧
      (idx = 0 → v = 0) ∧
      (idx = 1 → v.toNat =
        (match s.phase with | .idle => 0 | .running => 1 | .done => 2 | .error => 3) +
        4 * (match s.mode with | .none => 0 | .transform => 1 | .encode => 2 | .decode => 3) +
        256 * (match s.errCode with
          | .none => 0 | .truncHeader => 1 | .truncPayload => 2 | .noFrameWord => 3 | .frameRange => 4
          | .extraUnencodable => 5 | .outOverflow => 6 | .cmdInvalid => 7)) ∧
      (idx = 2 → v = s.errInfo) ∧ (idx = 3 → v = s.cfgDelay) ∧ (idx = 4 → v.toNat = s.cfgFlags.toNat) ∧
      (idx = 5 → v = s.inLen) ∧ (idx = 6 → v = s.inOffset) ∧ (idx = 7 → v = s.outLen) ∧
      (idx = 8 → v.toNat = s.delay.toNat % 2 ^ 32) ∧ (idx = 9 → v.toNat = s.delay.toNat / 2 ^ 32) ∧
      (idx = 10 → v = s.floor) ∧ (idx = 11 → v.toNat = s.gateOpen.toNat) ∧ (idx = 12 → v = s.lastFrame) ∧
      (idx = 13 → v = s.cmdCount) ∧ (idx = 14 ∨ idx = 15 → v = 0)

/-- R37, R191, R27, R28, R29: outside RUNNING, writes to slots 3 and 5 store all 32 bits and a write to slot 4 stores
bits [1:0]; nothing else changes. -/
def Obligations.ConfigWritesStore : Prop :=
  ∀ (v : Word) (rest : List Turn) (s : State), s.phase ≠ .running →
    (s.schedule = .host (.regWrite 3 v) :: rest → step s = .next { s with schedule := rest, cfgDelay := v }) ∧
    (s.schedule = .host (.regWrite 4 v) :: rest →
      step s = .next { s with schedule := rest, cfgFlags := BitVec.ofNat 2 v.toNat }) ∧
    (s.schedule = .host (.regWrite 5 v) :: rest → step s = .next { s with schedule := rest, inLen := v })

/-- R37, R36, R261: a write to a read-only or reserved slot has no effect in any phase, and a write to any slot has none
while RUNNING. -/
def Obligations.IgnoredWritesKeepState : Prop :=
  ∀ (idx : Fin 16) (v : Word) (rest : List Turn) (s : State), s.schedule = .host (.regWrite idx v) :: rest →
    s.phase = .running ∨ idx ∈ ([1, 2, 6, 7, 8, 9, 10, 11, 12, 13, 14, 15] : List (Fin 16)) →
    step s = .next { s with schedule := rest }

/-- R36: slots 14 and 15 read 0, and neither a read nor a write of them changes anything, in any phase. -/
def Obligations.ReservedSlotsInert : Prop :=
  ∀ (idx : Fin 16) (v : Word) (rest : List Turn) (s : State), idx = 14 ∨ idx = 15 →
    (s.schedule = .host (.regRead idx) :: rest →
      step s = .next { s with schedule := rest, replies := s.replies ++ [.word 0] }) ∧
    (s.schedule = .host (.regWrite idx v) :: rest → step s = .next { s with schedule := rest })

/-- R196: LoadIn outside RUNNING: IN holds exactly the bytes given, IN_LEN is their number, nothing else changes. -/
def Obligations.LoadInStores : Prop :=
  ∀ (bytes : List Byte) (rest : List Turn) (s : State), s.schedule = .host (.loadIn bytes) :: rest →
    s.phase ≠ .running → bytes.length ≤ 2 ^ 32 - 1 →
    ∃ m : Memory, step s = .next { s with schedule := rest, inMem := m, inLen := BitVec.ofNat 32 bytes.length } ∧
      ∀ a, Memory.read m a = bytes[a]?

/-- R197: SetCmdIn outside RUNNING replaces CMD_IN; OutRead and CmdOutRead hand back the byte or record (0, or no
command, past the end) and change nothing else, in every phase. -/
def Obligations.ListOperations : Prop :=
  ∀ (rest : List Turn) (s : State),
    (∀ l, s.schedule = .host (.setCmdIn l) :: rest → s.phase ≠ .running →
      step s = .next { s with schedule := rest, cmdIn := l }) ∧
    (∀ i b, s.schedule = .host (.outRead i) :: rest → i < s.outLen.toNat → s.out[i]? = some b →
      step s = .next { s with schedule := rest, replies := s.replies ++ [.byte b] }) ∧
    (∀ i, s.schedule = .host (.outRead i) :: rest → s.outLen.toNat ≤ i →
      step s = .next { s with schedule := rest, replies := s.replies ++ [.byte 0] }) ∧
    (∀ i, s.schedule = .host (.cmdOutRead i) :: rest →
      step s = .next { s with schedule := rest, replies := s.replies ++ [.command s.cmdOut[i]?] })

/-- R206: the model gives the host no LoadIn and no SetCmdIn while RUNNING. (That the missing move is a refusal is the
model's choice: log entry 11.) -/
def Obligations.NoLoadWhileRunning : Prop :=
  ∀ (rest : List Turn) (s : State), s.phase = .running →
    (∀ bytes, s.schedule = .host (.loadIn bytes) :: rest → step s = .refused .noHostMove) ∧
    (∀ l, s.schedule = .host (.setCmdIn l) :: rest → step s = .refused .noHostMove)

/-- R250, R47: hardware reset, in any phase, gives every piece of block state its reset value and leaves IN, CMD_IN and
the parameters as they are (and the host's side: log entry 12). -/
def Obligations.HardwareResetValues : Prop :=
  ∀ (rest : List Turn) (s : State), s.schedule = .host .hardReset :: rest →
    step s = .next { s with
      schedule := rest, phase := .idle, mode := .none, errCode := .none, errInfo := 0, cfgDelay := 0, cfgFlags := 0,
      inLen := 0, inOffset := 0, cmdCount := 0, out := [], outLen := 0, cmdOut := [], delay := 0, floor := 0,
      gateOpen := false, lastFrame := 0 }

/-- R47: the reset state has the spec's reset values. (Its IN, CMD_IN, parameters and the model's own fields are not
stated here: they are the model's choice.) -/
def Obligations.ResetStateValues : Prop :=
  State.reset.phase = .idle ∧ State.reset.mode = .none ∧ State.reset.errCode = .none ∧ State.reset.errInfo = 0 ∧
  State.reset.cfgDelay = 0 ∧ State.reset.cfgFlags = 0 ∧ State.reset.inLen = 0 ∧ State.reset.inOffset = 0 ∧
  State.reset.outLen = 0 ∧ State.reset.out = [] ∧ State.reset.delay = 0 ∧ State.reset.floor = 0 ∧
  State.reset.gateOpen = false ∧ State.reset.lastFrame = 0 ∧ State.reset.cmdCount = 0 ∧ State.reset.cmdOut = []

/-! ### Whole-machine rules -/

/-- R25, R200, R230, R232, R250: how PHASE can move in one step: RUNNING to DONE or ERROR only on the FRAMER's turn,
into RUNNING only from another phase by a CTRL write of 1 to 3, into IDLE only by hardware reset; and so out of ERROR
only by those two. -/
def Obligations.PhaseMoves : Prop :=
  ∀ s t : State, step s = .next t →
    t.phase = s.phase ∨
    (framersTurn s ∧ s.phase = .running ∧ (t.phase = .done ∨ t.phase = .error)) ∨
    (∃ v rest, s.schedule = .host (.regWrite 0 v) :: rest ∧ v.toNat % 4 ≠ 0 ∧ s.phase ≠ .running ∧ t.phase = .running) ∨
    (∃ rest, s.schedule = .host .hardReset :: rest ∧ t.phase = .idle)

/-- R60, R61, R33, R37, R71, R162: on its turn the FRAMER leaves the configuration, IN, IN_LEN, CMD_IN, the parameters,
MODE and the host's replies unchanged, only appends to OUT and CMD_OUT, never clears GATE_OPEN, never lowers FLOOR. -/
def Obligations.FramerFrame : Prop :=
  ∀ s t : State, framersTurn s → step s = .next t →
    t.cfgDelay = s.cfgDelay ∧ t.cfgFlags = s.cfgFlags ∧ t.inLen = s.inLen ∧ t.inMem = s.inMem ∧ t.cmdIn = s.cmdIn ∧
    t.outCap = s.outCap ∧ t.extraPolicy = s.extraPolicy ∧ t.mode = s.mode ∧ t.replies = s.replies ∧
    t.schedule = s.schedule.tail ∧ (∃ bytes, t.out = s.out ++ bytes) ∧ (∃ cs, t.cmdOut = s.cmdOut ++ cs) ∧
    (s.gateOpen = true → t.gateOpen = true) ∧ s.floor.toNat ≤ t.floor.toNat

/-- R250, R8: no step of any kind writes the parameters OUT_CAP and EXTRA_POLICY. -/
def Obligations.ParametersFixed : Prop :=
  ∀ s t : State, step s = .next t → t.outCap = s.outCap ∧ t.extraPolicy = s.extraPolicy

/-- R157, R170: while GATE = 1 and the gate is closed, a FRAMER step of a TRANSFORM run that neither opens the gate nor
ends the run writes nothing to OUT and changes neither DELAY nor FLOOR. -/
def Obligations.ClosedGateHoldsOutput : Prop :=
  ∀ s t : State, framersTurn s → runningIn .transform s → s.cfgFlags.getLsbD 0 = true → s.gateOpen = false →
    step s = .next t → t.gateOpen = false → t.phase = .running →
    t.out = s.out ∧ t.outLen = s.outLen ∧ t.delay = s.delay ∧ t.floor = s.floor

/-- R105, R60, R101: a FRAMER step never reads IN at an address ≥ IN_LEN: another IN that agrees below IN_LEN gives the
same outcome but for IN itself. -/
def Obligations.FetchStaysBelowInLen : Prop :=
  ∀ (m : Memory) (s : State), framersTurn s →
    (∀ a, a < s.inLen.toNat → Memory.read m a = Memory.read s.inMem a) →
    (∀ t, step s = .next t → step { s with inMem := m } = .next { t with inMem := m }) ∧
    (∀ e, step s = .fault e → step { s with inMem := m } = .fault e)

/-- R196, D27, I10: bytes of IN that were not loaded read as fresh draws, one free value each, in order; loaded ones read
as loaded. A word is read as its four bytes (R63). The statement holds whatever the draws are (their form is the model's
choice: log entry 6). -/
def Obligations.UnloadedBytesAreDrawn : Prop :=
  ∀ (m : Memory) (a n d : Nat),
    (readBytes m a n d).1.length = n ∧
    (readBytes m a n d).2 = d + (List.range n).countP (fun k => (Memory.read m (a + k)).isNone) ∧
    (∀ i, i < n → (readBytes m a n d).1[i]? =
      some ((Memory.read m (a + i)).getD
        (Config.freeByte (d + (List.range i).countP (fun k => (Memory.read m (a + k)).isNone))))) ∧
    ∃ b0 b1 b2 b3, (readBytes m a 4 d).1 = [b0, b1, b2, b3] ∧
      (readWord m a d).1.toNat = b0.toNat * 2 ^ 24 + b1.toNat * 2 ^ 16 + b2.toNat * 2 ^ 8 + b3.toNat ∧
      (readWord m a d).2 = (readBytes m a 4 d).2

/-! ### The codec (R80 to R93, R106, R110) -/

/-- R82, R83, R85, R63: a few packets written out from the spec decode to the instructions they stand for. -/
def Obligations.WrittenOutPacketsDecode : Prop :=
  decode (.stream [0, 0, 0, 0x46, 0, 0, 0, 4, 0, 0, 0, 7]) = .ok (.reset [7] []) [] ∧
  decode (.stream [0, 0, 0, 0x77, 0, 0, 0, 6, 0xDE, 0xAD, 0xBE, 0xEF, 1, 2]) = .ok (.unknown 0x77 [0xDEADBEEF] [1, 2]) [] ∧
  decode (.stream [0, 0, 0, 0x22, 0, 0, 0, 0]) = .ok (.info [] []) [] ∧
  decode (.stream [0, 0, 0, 0, 0, 0, 0]) = .truncatedHeader ∧
  decode (.ctrl 0xFFFFFFFD) = .ok (.startTransform (BitVec.allOnes 30)) []

/-- R110, R80 to R84, R93: decoding the encoding of a well-formed instruction, whatever bytes follow a packet, gives the
instruction and those bytes. (That the syntax carries CTRL's ignored bits is the model's choice: log entry 1.) -/
def Obligations.DecodeEncodeAgree : Prop :=
  ∀ i : Instr, WellFormed i = true →
    decode (encode i) = .ok i [] ∧
    ∀ bytes rest, encode i = .stream bytes → decode (.stream (bytes ++ rest)) = .ok i rest

/-- R110, R92: a decoded packet re-encodes to its own bytes, is well-formed, and what it leaves is the rest of the
stream. -/
def Obligations.EncodeDecodeAgree : Prop :=
  ∀ (bytes rest : List Byte) (i : Instr), decode (.stream bytes) = .ok i rest →
    WellFormed i = true ∧ ∃ packet, encode i = .stream packet ∧ bytes = packet ++ rest ∧ 8 ≤ packet.length

/-- R110: the machine's ENCODE and the decoder agree both ways, under any policy for commands without extra bytes and
under Emit for every valid command: what is encoded decodes to the command, and what is decoded re-encodes to its own
bytes. -/
def Obligations.CodecRoundTrip : Prop :=
  ∀ (policy : ExtraPolicy) (c : Command) (rest : List Byte), c.extra = [] ∨ policy = .emit →
    (c.extra.length ≤ 3 → 4 * c.payload.length + c.extra.length ≤ 2 ^ 32 - 1 →
      ∃ bytes, encodeCommand policy c = .ok bytes ∧ bytes.length = 8 + 4 * c.payload.length + c.extra.length ∧
        decode (.stream (bytes ++ rest)) = .ok (instrOfCommand c) rest ∧ commandOf (instrOfCommand c) = some c) ∧
    (∀ (stream : List Byte) (i : Instr), decode (.stream stream) = .ok i rest → commandOf i = some c →
      ∃ bytes, encodeCommand policy c = .ok bytes ∧ stream = bytes ++ rest)

/-- R89: FILLER(f) is INPUT(f, 0, 0, 0, 0) and encodes, under every policy, as its 28 bytes. -/
def Obligations.FillerEncoding : Prop :=
  ∀ (f : Word) (policy : ExtraPolicy),
    instrOfCommand (filler f) = .input [f, 0, 0, 0, 0] [] ∧
    encodeCommand policy (filler f) = .ok ([0, 0, 0, 3, 0, 0, 0, 0x14] ++ bytes32 f ++ List.replicate 16 0)

/-- R109: under OmitLiteral the packet of a record with extra bytes counts them in its size but does not hold them, so a
decoder of OUT takes the first bytes of what follows as the record's extra bytes. -/
def Obligations.OmitLiteralMisframes : Prop :=
  ∀ (c : Command) (bytes next rest : List Byte),
    c.extra ≠ [] → c.extra.length ≤ 3 → encodeCommand .omitLiteral c = .ok bytes → next.length = c.extra.length →
    decode (.stream (bytes ++ next ++ rest)) = .ok (instrOfCommand { c with extra := next }) rest

/-- R86: the INPUT view of a command with INPUT's opcode, absent player, buttons and analog words reading 0. (An absent
frame is no value: the model's choice, log entry 16.) -/
def Obligations.InputViewDefaults : Prop :=
  ∀ c : Command, c.opcode = 0x03 →
    ∃ v, inputView c = some v ∧ (∀ w ws, c.payload = w :: ws → v.frame = some w) ∧
      v.player = c.payload.getD 1 0 ∧ v.buttons = c.payload.getD 2 0 ∧
      v.analog1 = c.payload.getD 3 0 ∧ v.analog2 = c.payload.getD 4 0

/-- R87: the twelve buttons are the bits 0 to 11 of the buttons word, in the rule's order (unaudited literals:
log entry 15). -/
def Obligations.ButtonBits : Prop :=
  ∀ v : Word,
    [Button.b, .y, .select, .start, .up, .down, .left, .right, .a, .x, .l, .r].map (fun which => buttonHeld which v) =
      (List.range 12).map fun n => v.toNat.testBit n

/-! ### Invariants and runs -/

/-- The reset state is good. (That its IN and CMD_IN are empty is the model's choice: log entry 7.) -/
def Obligations.GoodAtReset : Prop := Good State.reset

/-- R24, R25, R26, R30, R42, R46, R60, R104, R194: every step, of the host or of the FRAMER, keeps a good state good. -/
def Obligations.GoodKept : Prop :=
  ∀ s t : State, Good s → step s = .next t → Good t

/-- The account of a TRANSFORM run (R46, R68) holds at reset, where there has been no run (R47). -/
def Obligations.AccountAtReset : Prop := TransformAccount State.reset

/-- R46, R31, R68, R161, R107: every step keeps the account of the latest TRANSFORM run: while it is on, at DONE (with
the trailer's fillers) and after an error, OUT is the concatenated encodings, in order, of commands emitted; DELAY ≠ 0
needs a RESET among them, and so does GATE_OPEN but after an error; while the run is on DELAY is the number of those
RESETs times D, and GATE_OPEN needs GATE. -/
def Obligations.AccountKept : Prop :=
  ∀ s t : State, Good s → TransformAccount s → step s = .next t → TransformAccount t

/-- R200, R201, R206: from a good state a step always answers a next state, where the host keeps its duties. -/
def Obligations.GoodStatesStep : Prop :=
  ∀ s : State, Good s → dutyKept s = true → ∃ t, step s = .next t

/-- R172, R201, R92: a TRANSFORM or DECODE run, left to itself, ends in DONE or ERROR after at most
floor((IN_LEN - IN_OFFSET) / 8) + 1 FRAMER steps. (That an empty schedule gives the FRAMER every turn is the model's
choice: log entry 3.) -/
def Obligations.DecodingRunEnds : Prop :=
  ∀ s : State, s.schedule = [] → runningIn .transform s ∨ runningIn .decode s →
    ∃ n t, n ≤ (s.inLen.toNat - s.inOffset.toNat) / 8 + 1 ∧ Sys2Proof.core.run n s = .next t ∧ runEnded t = true

/-- R201, R194: an ENCODE run, left to itself, ends in DONE or ERROR after at most len(CMD_IN) - CMD_COUNT + 1 FRAMER
steps. (That an empty schedule gives the FRAMER every turn is the model's choice: log entry 3.) -/
def Obligations.EncodingRunEnds : Prop :=
  ∀ s : State, Good s → s.schedule = [] → runningIn .encode s →
    ∃ n t, n ≤ s.cmdIn.length - s.cmdCount.toNat + 1 ∧ Sys2Proof.core.run n s = .next t ∧ runEnded t = true

/-- R167, R252: with D = 0, GATE = 0 and TRAILER = 0, a TRANSFORM run over a stream of packets, each frame-bearing one
with a frame word and each without extra bytes unless the policy is Emit, ends in DONE with OUT equal to IN byte for
byte; DELAY, FLOOR and GATE_OPEN stay 0 and LAST_FRAME is the frame of the last frame-bearing packet. (OUT_CAP must hold
the stream. That an empty schedule gives the FRAMER every turn is the model's choice: log entry 3.) -/
def Obligations.IdentityRun : Prop :=
  ∀ (cs : List Command) (s : State),
    (∀ c ∈ cs, c.extra.length ≤ 3 ∧ 4 * c.payload.length + c.extra.length ≤ 2 ^ 32 - 1 ∧
      (isFrameBearing c.opcode = true → c.payload ≠ []) ∧ (c.extra = [] ∨ policyInForce s = .emit)) →
    s.schedule = [] → runningIn .transform s → s.cfgDelay = 0 → s.cfgFlags = 0 →
    s.inOffset = 0 → s.cmdCount = 0 → s.out = [] → s.outLen = 0 → s.delay = 0 → s.floor = 0 → s.gateOpen = false →
    s.lastFrame = 0 → s.inLen.toNat = (cs.flatMap packetBytes).length → inHolds s 0 (cs.flatMap packetBytes) →
    (cs.flatMap packetBytes).length ≤ s.outCap.toNat →
    ∃ t, Sys2Proof.core.run (cs.length + 1) s = .next t ∧ t.phase = .done ∧ t.out = cs.flatMap packetBytes ∧
      t.delay = 0 ∧ t.floor = 0 ∧ t.gateOpen = false ∧ t.lastFrame = lastFrameOf cs ∧ t.inOffset = s.inLen ∧
      t.cmdCount.toNat = cs.length
end

