-- ==== Sys2Proof/Laws/Codec.lean ====
section
/-! SUPPORT. Laws of byte order, of the payload section and of the opcode map: what decoding and encoding are cut
into (spec/20_memory.md R63, spec/30_encoding.md R80 to R85, spec/40_codec.md R110). -/

namespace Sys2Proof

/-! ### Byte order -/

theorem bytes32_length (v : Word) : (bytes32 v).length = 4 := rfl

/-- Reading back the four bytes of a word gives the word. -/
theorem be32_bytes32 (v : Word) :
    be32 (v.extractLsb' 24 8) (v.extractLsb' 16 8) (v.extractLsb' 8 8) (v.extractLsb' 0 8) = v := by
  apply BitVec.eq_of_getLsbD_eq
  intro i hi
  simp only [be32, BitVec.getLsbD_append, BitVec.getLsbD_extractLsb']
  by_cases h0 : i < 8
  · simp [h0]
  · by_cases h1 : i < 16
    · have : i - 8 < 8 := by omega
      simp [h0, this, show 8 + (i - 8) = i by omega]
    · by_cases h2 : i < 24
      · have a : ¬ i - 8 < 8 := by omega
        have b : i - 8 - 8 < 8 := by omega
        simp [h0, a, b, show 16 + (i - 8 - 8) = i by omega]
      · have a : ¬ i - 8 < 8 := by omega
        have b : ¬ i - 8 - 8 < 8 := by omega
        have c : i - 8 - 8 - 8 < 8 := by omega
        simp [h0, a, b, c, show 24 + (i - 8 - 8 - 8) = i by omega]

/-- Writing the word of four bytes gives the four bytes. -/
theorem bytes32_be32 (b0 b1 b2 b3 : Byte) : bytes32 (be32 b0 b1 b2 b3) = [b0, b1, b2, b3] := by
  have h0 : (be32 b0 b1 b2 b3).extractLsb' 24 8 = b0 := by
    apply BitVec.eq_of_getLsbD_eq
    intro i hi
    simp only [be32, BitVec.getLsbD_append, BitVec.getLsbD_extractLsb']
    simp [hi, show ¬ 24 + i < 8 by omega, show ¬ 24 + i - 8 < 8 by omega, show ¬ 24 + i - 8 - 8 < 8 by omega,
      show 24 + i - 8 - 8 - 8 = i by omega]
  have h1 : (be32 b0 b1 b2 b3).extractLsb' 16 8 = b1 := by
    apply BitVec.eq_of_getLsbD_eq
    intro i hi
    simp only [be32, BitVec.getLsbD_append, BitVec.getLsbD_extractLsb']
    simp [hi, show ¬ 16 + i < 8 by omega, show ¬ 16 + i - 8 < 8 by omega, show 16 + i - 8 - 8 = i by omega]
  have h2 : (be32 b0 b1 b2 b3).extractLsb' 8 8 = b2 := by
    apply BitVec.eq_of_getLsbD_eq
    intro i hi
    simp only [be32, BitVec.getLsbD_append, BitVec.getLsbD_extractLsb']
    simp [hi, show ¬ 8 + i < 8 by omega, show 8 + i - 8 = i by omega]
  have h3 : (be32 b0 b1 b2 b3).extractLsb' 0 8 = b3 := by
    apply BitVec.eq_of_getLsbD_eq
    intro i hi
    simp only [be32, BitVec.getLsbD_append, BitVec.getLsbD_extractLsb']
    simp [hi]
  simp [bytes32, h0, h1, h2, h3]

/-! ### The payload section -/

theorem payloadBytes_length (p : List Word) : (payloadBytes p).length = 4 * p.length := by
  induction p with
  | nil => rfl
  | cons w ws ih => simp [payloadBytes, bytes32_length] at *; omega

theorem headerBytes_length (op : Word) (n : Nat) : (headerBytes op n).length = 8 := rfl

theorem packetBytes_length (c : Command) : (packetBytes c).length = 8 + payloadSize c := by
  simp only [packetBytes, List.length_append, headerBytes_length, payloadBytes_length, payloadSize]
  omega

/-- The bounds of a record that has a packet (R40, R106). -/
theorem wellFormedCommand_iff (c : Command) :
    wellFormedCommand c = true ↔ c.extra.length ≤ 3 ∧ payloadSize c ≤ 2 ^ 32 - 1 := by
  simp only [wellFormedCommand, Bool.and_eq_true, decide_eq_true_eq]

/-- Splitting a payload section into words and extra bytes undoes joining them, for at most 3 extra bytes. -/
theorem payload_split (p : List Word) (x : List Byte) (hx : x.length ≤ 3) :
    payloadWords (payloadBytes p ++ x) = p ∧ payloadExtra (payloadBytes p ++ x) = x := by
  induction p with
  | nil =>
    match x, hx with
    | [], _ | [_], _ | [_, _], _ | [_, _, _], _ => exact ⟨rfl, rfl⟩
    | _ :: _ :: _ :: _ :: _, h => simp at h; omega
  | cons w ws ih =>
    have e : payloadBytes (w :: ws) ++ x = bytes32 w ++ (payloadBytes ws ++ x) := by
      simp [payloadBytes]
    rw [e]
    constructor
    · simp only [bytes32, List.cons_append, List.nil_append, payloadWords, be32_bytes32, ih.1]
    · simp only [bytes32, List.cons_append, List.nil_append, payloadExtra, ih.2]

/-- Joining the words and extra bytes of a payload section gives its bytes back. -/
theorem payload_join (body : List Byte) : payloadBytes (payloadWords body) ++ payloadExtra body = body := by
  induction body using payloadWords.induct with
  | case1 b0 b1 b2 b3 rest ih =>
    simp only [payloadWords, payloadExtra, payloadBytes, List.flatMap_cons, bytes32_be32, List.append_assoc]
    simpa [payloadBytes] using ih
  | case2 body h =>
    match body, h with
    | [], _ | [_], _ | [_, _], _ | [_, _, _], _ => rfl
    | _ :: _ :: _ :: _ :: _, h => exact absurd rfl (h _ _ _ _ _)

theorem payloadExtra_length (body : List Byte) : (payloadExtra body).length ≤ 3 := by
  induction body using payloadExtra.induct with
  | case1 b0 b1 b2 b3 rest ih => simpa [payloadExtra] using ih
  | case2 body h =>
    match body, h with
    | [], _ | [_], _ | [_, _], _ | [_, _, _], _ => simp [payloadExtra]
    | _ :: _ :: _ :: _ :: _, h => exact absurd rfl (h _ _ _ _ _)

/-- `4 len(payload) + len(extra)` is the length of the payload section (R40, R82). -/
theorem payloadSize_split (op : Word) (body : List Byte) :
    payloadSize ⟨op, payloadWords body, payloadExtra body⟩ = body.length := by
  have h := congrArg List.length (payload_join body)
  simpa [payloadSize, payloadBytes_length] using h

/-! ### The opcode map -/

/-- A known command's record is under its own name, and an UNKNOWN record keeps its number (R85, R128). -/
theorem commandOf_instrOfCommand (c : Command) : commandOf (instrOfCommand c) = some c := by
  obtain ⟨op, p, x⟩ := c
  simp only [instrOfCommand]
  repeat' split
  all_goals simp_all [commandOf]

/-- The packet of a well-formed record is what R80 says, then whatever follows it. -/
theorem decodeStream_packet (c : Command) (h : wellFormedCommand c = true) (rest : List Byte) :
    decodeStream (packetBytes c ++ rest) = .ok (instrOfCommand c) rest := by
  simp only [wellFormedCommand, Bool.and_eq_true, decide_eq_true_eq] at h
  obtain ⟨hx, hsize⟩ := h
  have hs : (BitVec.ofNat 32 (payloadSize c)).toNat = payloadSize c := by
    simp [BitVec.toNat_ofNat]; omega
  have hl : (payloadBytes c.payload ++ c.extra).length = payloadSize c := by
    simp [payloadBytes_length, payloadSize]
  have e : packetBytes c ++ rest
      = headerBytes c.opcode (payloadSize c) ++ ((payloadBytes c.payload ++ c.extra) ++ rest) := by
    simp [packetBytes]
  rw [e]
  simp only [headerBytes, bytes32, List.cons_append, List.nil_append, decodeStream, be32_bytes32, hs]
  rw [if_neg (by simp only [List.length_append] at *; omega)]
  have ht : ((payloadBytes c.payload ++ c.extra) ++ rest).take (payloadSize c) = payloadBytes c.payload ++ c.extra := by
    rw [← hl]; exact List.take_left
  have hd : ((payloadBytes c.payload ++ c.extra) ++ rest).drop (payloadSize c) = rest := by
    rw [← hl]; exact List.drop_left
  rw [ht, hd]
  obtain ⟨hw, he⟩ := payload_split c.payload c.extra hx
  simp only [decodePacket, hw, he]

/-- A CTRL word's 30 ignored bits and its command number are read back (R93). -/
theorem ctrlWord_fields (r : BitVec 30) (cmd : BitVec 2) :
    (ctrlWord r cmd).extractLsb' 2 30 = r ∧ (ctrlWord r cmd).extractLsb' 0 2 = cmd := by
  constructor
  · apply BitVec.eq_of_getLsbD_eq
    intro i hi
    simp only [ctrlWord, BitVec.getLsbD_append, BitVec.getLsbD_extractLsb']
    simp [hi, show ¬ 2 + i < 2 by omega]
  · apply BitVec.eq_of_getLsbD_eq
    intro i hi
    simp only [ctrlWord, BitVec.getLsbD_append, BitVec.getLsbD_extractLsb']
    simp [hi]

end Sys2Proof
end

