-- ==== Sys2Proof/Laws/Memory.lean ====
section
/-! SUPPORT. Laws of IN: read after write, the canonical form kept by every memory operation, and what reading bytes
gives (spec/20_memory.md R60, R65; spec/43_host_control.md R196). -/

namespace Sys2Proof.Machine

theorem Memory.wf_tail {c : Host.Cell} {m : Memory} (h : Memory.wf (c :: m)) : Memory.wf m :=
  (List.pairwise_cons.mp h).2

theorem Memory.wf_head {c : Host.Cell} {m : Memory} (h : Memory.wf (c :: m)) : ∀ d ∈ m, c.1 < d.1 :=
  (List.pairwise_cons.mp h).1

/-- An address below every listed one is not listed. -/
theorem Memory.read_below {m : Memory} {a : Nat} (h : ∀ c ∈ m, a < c.1) : Memory.read m a = none := by
  induction m with
  | nil => rfl
  | cons c m ih =>
    have hc : c.1 ≠ a := by have := h c (by simp); omega
    simp only [Memory.read, if_neg hc]
    exact ih fun d hd => h d (by simp [hd])

/-- Every cell of a write is an old cell or the new one. -/
theorem Memory.mem_write {m : Memory} {a : Nat} {b : Byte} {c : Host.Cell} (h : c ∈ Memory.write m a b) :
    c ∈ m ∨ c = (a, b) := by
  induction m with
  | nil => simp [Memory.write] at h; exact .inr h
  | cons d m ih =>
    simp only [Memory.write] at h
    split at h
    · simp at h ⊢; tauto
    · split at h
      · simp at h ⊢; tauto
      · simp only [List.mem_cons] at h ⊢
        rcases h with h | h
        · exact .inl (.inl h)
        · rcases ih h with h | h
          · exact .inl (.inr h)
          · exact .inr h

/-- A write keeps the canonical form. -/
theorem Memory.write_wf {m : Memory} (h : Memory.wf m) (a : Nat) (b : Byte) : Memory.wf (Memory.write m a b) := by
  induction m with
  | nil => simp [Memory.write, Memory.wf]
  | cons d m ih =>
    have hm := Memory.wf_tail h
    have hd := Memory.wf_head h
    simp only [Memory.write]
    split
    · rename_i hlt
      refine List.pairwise_cons.mpr ⟨fun c hc => ?_, h⟩
      rcases List.mem_cons.mp hc with rfl | hc
      · exact hlt
      · exact Nat.lt_trans hlt (hd c hc)
    · split
      · rename_i heq
        exact List.pairwise_cons.mpr ⟨fun c hc => by rw [heq]; exact hd c hc, hm⟩
      · rename_i hge hne
        refine List.pairwise_cons.mpr ⟨fun c hc => ?_, ih hm⟩
        rcases Memory.mem_write hc with hc | rfl
        · exact hd c hc
        · show d.1 < a
          omega

/-- A read after a write: the byte written, and every other address as before. -/
theorem Memory.read_write {m : Memory} (h : Memory.wf m) (a : Nat) (b : Byte) (x : Nat) :
    Memory.read (Memory.write m a b) x = if x = a then some b else Memory.read m x := by
  induction m with
  | nil => simp only [Memory.write, Memory.read, eq_comm]
  | cons d m ih =>
    have ih := ih (Memory.wf_tail h)
    have hd := Memory.wf_head h
    simp only [Memory.write]
    split
    · rename_i hlt
      by_cases hx : x = a
      · simp [Memory.read, hx]
      · simp [Memory.read, hx, Ne.symm hx]
    · split
      · rename_i heq
        subst heq
        by_cases hx : x = d.1
        · simp [Memory.read, hx]
        · simp [Memory.read, hx, Ne.symm hx]
      · rename_i hge hne
        simp only [Memory.read, ih]
        by_cases hdx : d.1 = x
        · rw [if_pos hdx, if_pos hdx, if_neg (by omega)]
        · rw [if_neg hdx, if_neg hdx]

theorem Memory.writeBytes_wf {m : Memory} (h : Memory.wf m) (a : Nat) (bs : List Byte) :
    Memory.wf (Memory.writeBytes m a bs) := by
  induction bs generalizing m a with
  | nil => exact h
  | cons b bs ih => exact ih (Memory.write_wf h a b) (a + 1)

/-- What a run of writes leaves at each address. -/
theorem Memory.read_writeBytes {m : Memory} (h : Memory.wf m) (a : Nat) (bs : List Byte) (x : Nat) :
    Memory.read (Memory.writeBytes m a bs) x = if a ≤ x ∧ x < a + bs.length then bs[x - a]? else Memory.read m x := by
  induction bs generalizing m a with
  | nil => simp [Memory.writeBytes]
  | cons b bs ih =>
    simp only [Memory.writeBytes, ih (Memory.write_wf h a b), Memory.read_write h, List.length_cons]
    by_cases h1 : a + 1 ≤ x ∧ x < a + 1 + bs.length
    · rw [if_pos h1, if_pos (by omega), show x - a = (x - (a + 1)) + 1 by omega, List.getElem?_cons_succ]
    · rw [if_neg h1]
      by_cases h2 : x = a
      · subst h2; simp
      · rw [if_neg h2, if_neg (by omega)]

/-- Every cell of a loaded memory lies in the loaded range. -/
theorem Memory.mem_load {a : Nat} {bs : List Byte} {c : Host.Cell} (h : c ∈ Memory.load a bs) :
    a ≤ c.1 ∧ c.1 < a + bs.length := by
  induction bs generalizing a with
  | nil => simp [Memory.load] at h
  | cons b bs ih =>
    simp only [Memory.load, List.mem_cons, List.length_cons] at h ⊢
    rcases h with rfl | h
    · exact ⟨Nat.le_refl _, by show a < _; omega⟩
    · have := ih h; omega

/-- A loaded memory has the canonical form. -/
theorem Memory.load_wf (a : Nat) (bs : List Byte) : Memory.wf (Memory.load a bs) := by
  induction bs generalizing a with
  | nil => exact List.Pairwise.nil
  | cons b bs ih =>
    refine List.pairwise_cons.mpr ⟨fun c hc => ?_, ih (a + 1)⟩
    have := Memory.mem_load hc
    show a < c.1
    omega

/-- A loaded memory holds exactly the bytes loaded (R196). -/
theorem Memory.read_load (a : Nat) (bs : List Byte) (x : Nat) :
    Memory.read (Memory.load a bs) x = if a ≤ x then bs[x - a]? else none := by
  induction bs generalizing a with
  | nil => simp [Memory.load, Memory.read, Memory.unlisted]
  | cons b bs ih =>
    simp only [Memory.load, Memory.read, ih]
    by_cases h1 : a = x
    · subst h1; simp
    · rw [if_neg h1]
      by_cases h2 : a + 1 ≤ x
      · rw [if_pos h2, if_pos (by omega), show x - a = (x - (a + 1)) + 1 by omega, List.getElem?_cons_succ]
      · rw [if_neg h2, if_neg (by omega)]

/-! ### Reading bytes -/

/-- A byte that was loaded reads as loaded and draws nothing. -/
theorem readByte_loaded {m : Memory} {a : Nat} {b : Byte} (h : Memory.read m a = some b) (draws : Nat) :
    readByte m a draws = (b, draws) := by
  simp [readByte, h]

/-- A byte that was not loaded reads as the next draw. -/
theorem readByte_drawn {m : Memory} {a : Nat} (h : Memory.read m a = none) (draws : Nat) :
    readByte m a draws = (Config.freeByte draws, draws + 1) := by
  simp [readByte, h]

/-- What a read of one byte gives, and the draws after it, loaded or not (R196). -/
theorem readByte_eq (m : Memory) (a draws : Nat) :
    readByte m a draws =
      ((Memory.read m a).getD (Config.freeByte draws), draws + [a].countP fun a => (Memory.read m a).isNone) := by
  unfold readByte
  cases h : Memory.read m a <;> simp [h]

theorem readBytes_length (m : Memory) (a n draws : Nat) : (readBytes m a n draws).1.length = n := by
  induction n generalizing a draws with
  | zero => rfl
  | succ n ih => simp [readBytes, ih]

/-- Bytes that were loaded read as loaded, in order, and draw nothing. -/
theorem readBytes_loaded (m : Memory) (a draws : Nat) (bs : List Byte)
    (h : ∀ i, i < bs.length → Memory.read m (a + i) = bs[i]?) :
    readBytes m a bs.length draws = (bs, draws) := by
  induction bs generalizing a with
  | nil => rfl
  | cons b bs ih =>
    have h0 : Memory.read m a = some b := by simpa using h 0 (by simp)
    have ht := ih (a + 1) fun i hi => by
      have := h (i + 1) (by simpa using hi)
      simpa [Nat.add_assoc, Nat.add_comm 1 i] using this
    simp [readBytes, readByte_loaded h0, ht]

/-- A word whose four bytes were loaded reads as their `be32` (R63). -/
theorem readWord_loaded (m : Memory) (a draws : Nat) (b0 b1 b2 b3 : Byte)
    (h0 : Memory.read m a = some b0) (h1 : Memory.read m (a + 1) = some b1)
    (h2 : Memory.read m (a + 2) = some b2) (h3 : Memory.read m (a + 3) = some b3) :
    readWord m a draws = (be32 b0 b1 b2 b3, draws) := by
  simp [readWord, readByte_loaded h0, readByte_loaded h1, readByte_loaded h2, readByte_loaded h3]

end Sys2Proof.Machine
end

