-- ==== Sys2Proof/Laws/State.lean ====
section
/-! SUPPORT. One lemma per field per named update of State, true by rfl, so that no proof unfolds a record update; and
the range of OUT_CAP (R8). -/

namespace Sys2Proof

/-- OUT_CAP is at least 1 (R8). -/
theorem OutCap.toNat_pos (cap : OutCap) : 0 < cap.toNat :=
  cap.pos

/-- OUT_CAP is at most 2^32 - 1 (R8). -/
theorem OutCap.toNat_lt (cap : OutCap) : cap.toNat < 2 ^ 32 :=
  cap.bytes.isLt

end Sys2Proof

namespace Sys2Proof.Machine

/-! ### `raise` -/

@[simp] theorem raise_phase (e : ErrCode) (info : Word) (s : State) :
    (raise e info s).phase = .error := rfl
@[simp] theorem raise_mode (e : ErrCode) (info : Word) (s : State) :
    (raise e info s).mode = s.mode := rfl
@[simp] theorem raise_errCode (e : ErrCode) (info : Word) (s : State) :
    (raise e info s).errCode = e := rfl
@[simp] theorem raise_errInfo (e : ErrCode) (info : Word) (s : State) :
    (raise e info s).errInfo = info := rfl
@[simp] theorem raise_cfgDelay (e : ErrCode) (info : Word) (s : State) :
    (raise e info s).cfgDelay = s.cfgDelay := rfl
@[simp] theorem raise_cfgFlags (e : ErrCode) (info : Word) (s : State) :
    (raise e info s).cfgFlags = s.cfgFlags := rfl
@[simp] theorem raise_inLen (e : ErrCode) (info : Word) (s : State) :
    (raise e info s).inLen = s.inLen := rfl
@[simp] theorem raise_inOffset (e : ErrCode) (info : Word) (s : State) :
    (raise e info s).inOffset = s.inOffset := rfl
@[simp] theorem raise_outLen (e : ErrCode) (info : Word) (s : State) :
    (raise e info s).outLen = s.outLen := rfl
@[simp] theorem raise_delay (e : ErrCode) (info : Word) (s : State) :
    (raise e info s).delay = s.delay := rfl
@[simp] theorem raise_floor (e : ErrCode) (info : Word) (s : State) :
    (raise e info s).floor = s.floor := rfl
@[simp] theorem raise_gateOpen (e : ErrCode) (info : Word) (s : State) :
    (raise e info s).gateOpen = s.gateOpen := rfl
@[simp] theorem raise_lastFrame (e : ErrCode) (info : Word) (s : State) :
    (raise e info s).lastFrame = s.lastFrame := rfl
@[simp] theorem raise_cmdCount (e : ErrCode) (info : Word) (s : State) :
    (raise e info s).cmdCount = s.cmdCount := rfl
@[simp] theorem raise_inMem (e : ErrCode) (info : Word) (s : State) :
    (raise e info s).inMem = s.inMem := rfl
@[simp] theorem raise_out (e : ErrCode) (info : Word) (s : State) :
    (raise e info s).out = s.out := rfl
@[simp] theorem raise_cmdIn (e : ErrCode) (info : Word) (s : State) :
    (raise e info s).cmdIn = s.cmdIn := rfl
@[simp] theorem raise_cmdOut (e : ErrCode) (info : Word) (s : State) :
    (raise e info s).cmdOut = s.cmdOut := rfl
@[simp] theorem raise_outCap (e : ErrCode) (info : Word) (s : State) :
    (raise e info s).outCap = s.outCap := rfl
@[simp] theorem raise_extraPolicy (e : ErrCode) (info : Word) (s : State) :
    (raise e info s).extraPolicy = s.extraPolicy := rfl
@[simp] theorem raise_draws (e : ErrCode) (info : Word) (s : State) :
    (raise e info s).draws = s.draws := rfl
@[simp] theorem raise_schedule (e : ErrCode) (info : Word) (s : State) :
    (raise e info s).schedule = s.schedule := rfl
@[simp] theorem raise_replies (e : ErrCode) (info : Word) (s : State) :
    (raise e info s).replies = s.replies := rfl

/-! ### `startRun` -/

@[simp] theorem startRun_phase (m : Mode) (s : State) :
    (startRun m s).phase = .running := rfl
@[simp] theorem startRun_mode (m : Mode) (s : State) :
    (startRun m s).mode = m := rfl
@[simp] theorem startRun_errCode (m : Mode) (s : State) :
    (startRun m s).errCode = .none := rfl
@[simp] theorem startRun_errInfo (m : Mode) (s : State) :
    (startRun m s).errInfo = 0 := rfl
@[simp] theorem startRun_cfgDelay (m : Mode) (s : State) :
    (startRun m s).cfgDelay = s.cfgDelay := rfl
@[simp] theorem startRun_cfgFlags (m : Mode) (s : State) :
    (startRun m s).cfgFlags = s.cfgFlags := rfl
@[simp] theorem startRun_inLen (m : Mode) (s : State) :
    (startRun m s).inLen = s.inLen := rfl
@[simp] theorem startRun_inOffset (m : Mode) (s : State) :
    (startRun m s).inOffset = 0 := rfl
@[simp] theorem startRun_outLen (m : Mode) (s : State) :
    (startRun m s).outLen = 0 := rfl
@[simp] theorem startRun_delay (m : Mode) (s : State) :
    (startRun m s).delay = 0 := rfl
@[simp] theorem startRun_floor (m : Mode) (s : State) :
    (startRun m s).floor = 0 := rfl
@[simp] theorem startRun_gateOpen (m : Mode) (s : State) :
    (startRun m s).gateOpen = false := rfl
@[simp] theorem startRun_lastFrame (m : Mode) (s : State) :
    (startRun m s).lastFrame = 0 := rfl
@[simp] theorem startRun_cmdCount (m : Mode) (s : State) :
    (startRun m s).cmdCount = 0 := rfl
@[simp] theorem startRun_inMem (m : Mode) (s : State) :
    (startRun m s).inMem = s.inMem := rfl
@[simp] theorem startRun_out (m : Mode) (s : State) :
    (startRun m s).out = [] := rfl
@[simp] theorem startRun_cmdIn (m : Mode) (s : State) :
    (startRun m s).cmdIn = s.cmdIn := rfl
@[simp] theorem startRun_cmdOut (m : Mode) (s : State) :
    (startRun m s).cmdOut = [] := rfl
@[simp] theorem startRun_outCap (m : Mode) (s : State) :
    (startRun m s).outCap = s.outCap := rfl
@[simp] theorem startRun_extraPolicy (m : Mode) (s : State) :
    (startRun m s).extraPolicy = s.extraPolicy := rfl
@[simp] theorem startRun_draws (m : Mode) (s : State) :
    (startRun m s).draws = s.draws := rfl
@[simp] theorem startRun_schedule (m : Mode) (s : State) :
    (startRun m s).schedule = s.schedule := rfl
@[simp] theorem startRun_replies (m : Mode) (s : State) :
    (startRun m s).replies = s.replies := rfl

/-! ### `hardReset` -/

@[simp] theorem hardReset_phase (s : State) :
    (hardReset s).phase = .idle := rfl
@[simp] theorem hardReset_mode (s : State) :
    (hardReset s).mode = .none := rfl
@[simp] theorem hardReset_errCode (s : State) :
    (hardReset s).errCode = .none := rfl
@[simp] theorem hardReset_errInfo (s : State) :
    (hardReset s).errInfo = 0 := rfl
@[simp] theorem hardReset_cfgDelay (s : State) :
    (hardReset s).cfgDelay = 0 := rfl
@[simp] theorem hardReset_cfgFlags (s : State) :
    (hardReset s).cfgFlags = 0 := rfl
@[simp] theorem hardReset_inLen (s : State) :
    (hardReset s).inLen = 0 := rfl
@[simp] theorem hardReset_inOffset (s : State) :
    (hardReset s).inOffset = 0 := rfl
@[simp] theorem hardReset_outLen (s : State) :
    (hardReset s).outLen = 0 := rfl
@[simp] theorem hardReset_delay (s : State) :
    (hardReset s).delay = 0 := rfl
@[simp] theorem hardReset_floor (s : State) :
    (hardReset s).floor = 0 := rfl
@[simp] theorem hardReset_gateOpen (s : State) :
    (hardReset s).gateOpen = false := rfl
@[simp] theorem hardReset_lastFrame (s : State) :
    (hardReset s).lastFrame = 0 := rfl
@[simp] theorem hardReset_cmdCount (s : State) :
    (hardReset s).cmdCount = 0 := rfl
@[simp] theorem hardReset_inMem (s : State) :
    (hardReset s).inMem = s.inMem := rfl
@[simp] theorem hardReset_out (s : State) :
    (hardReset s).out = [] := rfl
@[simp] theorem hardReset_cmdIn (s : State) :
    (hardReset s).cmdIn = s.cmdIn := rfl
@[simp] theorem hardReset_cmdOut (s : State) :
    (hardReset s).cmdOut = [] := rfl
@[simp] theorem hardReset_outCap (s : State) :
    (hardReset s).outCap = s.outCap := rfl
@[simp] theorem hardReset_extraPolicy (s : State) :
    (hardReset s).extraPolicy = s.extraPolicy := rfl
@[simp] theorem hardReset_draws (s : State) :
    (hardReset s).draws = s.draws := rfl
@[simp] theorem hardReset_schedule (s : State) :
    (hardReset s).schedule = s.schedule := rfl
@[simp] theorem hardReset_replies (s : State) :
    (hardReset s).replies = s.replies := rfl

/-! ### `finishRun` -/

@[simp] theorem finishRun_phase (s : State) :
    (finishRun s).phase = .done := rfl
@[simp] theorem finishRun_mode (s : State) :
    (finishRun s).mode = s.mode := rfl
@[simp] theorem finishRun_errCode (s : State) :
    (finishRun s).errCode = s.errCode := rfl
@[simp] theorem finishRun_errInfo (s : State) :
    (finishRun s).errInfo = s.errInfo := rfl
@[simp] theorem finishRun_cfgDelay (s : State) :
    (finishRun s).cfgDelay = s.cfgDelay := rfl
@[simp] theorem finishRun_cfgFlags (s : State) :
    (finishRun s).cfgFlags = s.cfgFlags := rfl
@[simp] theorem finishRun_inLen (s : State) :
    (finishRun s).inLen = s.inLen := rfl
@[simp] theorem finishRun_inOffset (s : State) :
    (finishRun s).inOffset = s.inOffset := rfl
@[simp] theorem finishRun_outLen (s : State) :
    (finishRun s).outLen = s.outLen := rfl
@[simp] theorem finishRun_delay (s : State) :
    (finishRun s).delay = s.delay := rfl
@[simp] theorem finishRun_floor (s : State) :
    (finishRun s).floor = s.floor := rfl
@[simp] theorem finishRun_gateOpen (s : State) :
    (finishRun s).gateOpen = s.gateOpen := rfl
@[simp] theorem finishRun_lastFrame (s : State) :
    (finishRun s).lastFrame = s.lastFrame := rfl
@[simp] theorem finishRun_cmdCount (s : State) :
    (finishRun s).cmdCount = s.cmdCount := rfl
@[simp] theorem finishRun_inMem (s : State) :
    (finishRun s).inMem = s.inMem := rfl
@[simp] theorem finishRun_out (s : State) :
    (finishRun s).out = s.out := rfl
@[simp] theorem finishRun_cmdIn (s : State) :
    (finishRun s).cmdIn = s.cmdIn := rfl
@[simp] theorem finishRun_cmdOut (s : State) :
    (finishRun s).cmdOut = s.cmdOut := rfl
@[simp] theorem finishRun_outCap (s : State) :
    (finishRun s).outCap = s.outCap := rfl
@[simp] theorem finishRun_extraPolicy (s : State) :
    (finishRun s).extraPolicy = s.extraPolicy := rfl
@[simp] theorem finishRun_draws (s : State) :
    (finishRun s).draws = s.draws := rfl
@[simp] theorem finishRun_schedule (s : State) :
    (finishRun s).schedule = s.schedule := rfl
@[simp] theorem finishRun_replies (s : State) :
    (finishRun s).replies = s.replies := rfl

/-! ### `advance` -/

@[simp] theorem advance_phase (c : Command) (s : State) :
    (advance c s).phase = s.phase := rfl
@[simp] theorem advance_mode (c : Command) (s : State) :
    (advance c s).mode = s.mode := rfl
@[simp] theorem advance_errCode (c : Command) (s : State) :
    (advance c s).errCode = s.errCode := rfl
@[simp] theorem advance_errInfo (c : Command) (s : State) :
    (advance c s).errInfo = s.errInfo := rfl
@[simp] theorem advance_cfgDelay (c : Command) (s : State) :
    (advance c s).cfgDelay = s.cfgDelay := rfl
@[simp] theorem advance_cfgFlags (c : Command) (s : State) :
    (advance c s).cfgFlags = s.cfgFlags := rfl
@[simp] theorem advance_inLen (c : Command) (s : State) :
    (advance c s).inLen = s.inLen := rfl
@[simp] theorem advance_inOffset (c : Command) (s : State) :
    (advance c s).inOffset = s.inOffset + BitVec.ofNat 32 (8 + payloadSize c) := rfl
@[simp] theorem advance_outLen (c : Command) (s : State) :
    (advance c s).outLen = s.outLen := rfl
@[simp] theorem advance_delay (c : Command) (s : State) :
    (advance c s).delay = s.delay := rfl
@[simp] theorem advance_floor (c : Command) (s : State) :
    (advance c s).floor = s.floor := rfl
@[simp] theorem advance_gateOpen (c : Command) (s : State) :
    (advance c s).gateOpen = s.gateOpen := rfl
@[simp] theorem advance_lastFrame (c : Command) (s : State) :
    (advance c s).lastFrame = s.lastFrame := rfl
@[simp] theorem advance_cmdCount (c : Command) (s : State) :
    (advance c s).cmdCount = s.cmdCount + 1 := rfl
@[simp] theorem advance_inMem (c : Command) (s : State) :
    (advance c s).inMem = s.inMem := rfl
@[simp] theorem advance_out (c : Command) (s : State) :
    (advance c s).out = s.out := rfl
@[simp] theorem advance_cmdIn (c : Command) (s : State) :
    (advance c s).cmdIn = s.cmdIn := rfl
@[simp] theorem advance_cmdOut (c : Command) (s : State) :
    (advance c s).cmdOut = s.cmdOut := rfl
@[simp] theorem advance_outCap (c : Command) (s : State) :
    (advance c s).outCap = s.outCap := rfl
@[simp] theorem advance_extraPolicy (c : Command) (s : State) :
    (advance c s).extraPolicy = s.extraPolicy := rfl
@[simp] theorem advance_draws (c : Command) (s : State) :
    (advance c s).draws = s.draws := rfl
@[simp] theorem advance_schedule (c : Command) (s : State) :
    (advance c s).schedule = s.schedule := rfl
@[simp] theorem advance_replies (c : Command) (s : State) :
    (advance c s).replies = s.replies := rfl

/-! ### `countEncoded` -/

@[simp] theorem countEncoded_phase (s : State) :
    (countEncoded s).phase = s.phase := rfl
@[simp] theorem countEncoded_mode (s : State) :
    (countEncoded s).mode = s.mode := rfl
@[simp] theorem countEncoded_errCode (s : State) :
    (countEncoded s).errCode = s.errCode := rfl
@[simp] theorem countEncoded_errInfo (s : State) :
    (countEncoded s).errInfo = s.errInfo := rfl
@[simp] theorem countEncoded_cfgDelay (s : State) :
    (countEncoded s).cfgDelay = s.cfgDelay := rfl
@[simp] theorem countEncoded_cfgFlags (s : State) :
    (countEncoded s).cfgFlags = s.cfgFlags := rfl
@[simp] theorem countEncoded_inLen (s : State) :
    (countEncoded s).inLen = s.inLen := rfl
@[simp] theorem countEncoded_inOffset (s : State) :
    (countEncoded s).inOffset = s.inOffset := rfl
@[simp] theorem countEncoded_outLen (s : State) :
    (countEncoded s).outLen = s.outLen := rfl
@[simp] theorem countEncoded_delay (s : State) :
    (countEncoded s).delay = s.delay := rfl
@[simp] theorem countEncoded_floor (s : State) :
    (countEncoded s).floor = s.floor := rfl
@[simp] theorem countEncoded_gateOpen (s : State) :
    (countEncoded s).gateOpen = s.gateOpen := rfl
@[simp] theorem countEncoded_lastFrame (s : State) :
    (countEncoded s).lastFrame = s.lastFrame := rfl
@[simp] theorem countEncoded_cmdCount (s : State) :
    (countEncoded s).cmdCount = s.cmdCount + 1 := rfl
@[simp] theorem countEncoded_inMem (s : State) :
    (countEncoded s).inMem = s.inMem := rfl
@[simp] theorem countEncoded_out (s : State) :
    (countEncoded s).out = s.out := rfl
@[simp] theorem countEncoded_cmdIn (s : State) :
    (countEncoded s).cmdIn = s.cmdIn := rfl
@[simp] theorem countEncoded_cmdOut (s : State) :
    (countEncoded s).cmdOut = s.cmdOut := rfl
@[simp] theorem countEncoded_outCap (s : State) :
    (countEncoded s).outCap = s.outCap := rfl
@[simp] theorem countEncoded_extraPolicy (s : State) :
    (countEncoded s).extraPolicy = s.extraPolicy := rfl
@[simp] theorem countEncoded_draws (s : State) :
    (countEncoded s).draws = s.draws := rfl
@[simp] theorem countEncoded_schedule (s : State) :
    (countEncoded s).schedule = s.schedule := rfl
@[simp] theorem countEncoded_replies (s : State) :
    (countEncoded s).replies = s.replies := rfl

/-! ### `deliver` -/

@[simp] theorem deliver_phase (c : Command) (s : State) :
    (deliver c s).phase = s.phase := rfl
@[simp] theorem deliver_mode (c : Command) (s : State) :
    (deliver c s).mode = s.mode := rfl
@[simp] theorem deliver_errCode (c : Command) (s : State) :
    (deliver c s).errCode = s.errCode := rfl
@[simp] theorem deliver_errInfo (c : Command) (s : State) :
    (deliver c s).errInfo = s.errInfo := rfl
@[simp] theorem deliver_cfgDelay (c : Command) (s : State) :
    (deliver c s).cfgDelay = s.cfgDelay := rfl
@[simp] theorem deliver_cfgFlags (c : Command) (s : State) :
    (deliver c s).cfgFlags = s.cfgFlags := rfl
@[simp] theorem deliver_inLen (c : Command) (s : State) :
    (deliver c s).inLen = s.inLen := rfl
@[simp] theorem deliver_inOffset (c : Command) (s : State) :
    (deliver c s).inOffset = s.inOffset := rfl
@[simp] theorem deliver_outLen (c : Command) (s : State) :
    (deliver c s).outLen = s.outLen := rfl
@[simp] theorem deliver_delay (c : Command) (s : State) :
    (deliver c s).delay = s.delay := rfl
@[simp] theorem deliver_floor (c : Command) (s : State) :
    (deliver c s).floor = s.floor := rfl
@[simp] theorem deliver_gateOpen (c : Command) (s : State) :
    (deliver c s).gateOpen = s.gateOpen := rfl
@[simp] theorem deliver_lastFrame (c : Command) (s : State) :
    (deliver c s).lastFrame = s.lastFrame := rfl
@[simp] theorem deliver_cmdCount (c : Command) (s : State) :
    (deliver c s).cmdCount = s.cmdCount := rfl
@[simp] theorem deliver_inMem (c : Command) (s : State) :
    (deliver c s).inMem = s.inMem := rfl
@[simp] theorem deliver_out (c : Command) (s : State) :
    (deliver c s).out = s.out := rfl
@[simp] theorem deliver_cmdIn (c : Command) (s : State) :
    (deliver c s).cmdIn = s.cmdIn := rfl
@[simp] theorem deliver_cmdOut (c : Command) (s : State) :
    (deliver c s).cmdOut = s.cmdOut ++ [c] := rfl
@[simp] theorem deliver_outCap (c : Command) (s : State) :
    (deliver c s).outCap = s.outCap := rfl
@[simp] theorem deliver_extraPolicy (c : Command) (s : State) :
    (deliver c s).extraPolicy = s.extraPolicy := rfl
@[simp] theorem deliver_draws (c : Command) (s : State) :
    (deliver c s).draws = s.draws := rfl
@[simp] theorem deliver_schedule (c : Command) (s : State) :
    (deliver c s).schedule = s.schedule := rfl
@[simp] theorem deliver_replies (c : Command) (s : State) :
    (deliver c s).replies = s.replies := rfl

/-! ### `appendOut` -/

@[simp] theorem appendOut_phase (bytes : List Byte) (s : State) :
    (appendOut bytes s).phase = s.phase := rfl
@[simp] theorem appendOut_mode (bytes : List Byte) (s : State) :
    (appendOut bytes s).mode = s.mode := rfl
@[simp] theorem appendOut_errCode (bytes : List Byte) (s : State) :
    (appendOut bytes s).errCode = s.errCode := rfl
@[simp] theorem appendOut_errInfo (bytes : List Byte) (s : State) :
    (appendOut bytes s).errInfo = s.errInfo := rfl
@[simp] theorem appendOut_cfgDelay (bytes : List Byte) (s : State) :
    (appendOut bytes s).cfgDelay = s.cfgDelay := rfl
@[simp] theorem appendOut_cfgFlags (bytes : List Byte) (s : State) :
    (appendOut bytes s).cfgFlags = s.cfgFlags := rfl
@[simp] theorem appendOut_inLen (bytes : List Byte) (s : State) :
    (appendOut bytes s).inLen = s.inLen := rfl
@[simp] theorem appendOut_inOffset (bytes : List Byte) (s : State) :
    (appendOut bytes s).inOffset = s.inOffset := rfl
@[simp] theorem appendOut_outLen (bytes : List Byte) (s : State) :
    (appendOut bytes s).outLen = s.outLen + BitVec.ofNat 32 bytes.length := rfl
@[simp] theorem appendOut_delay (bytes : List Byte) (s : State) :
    (appendOut bytes s).delay = s.delay := rfl
@[simp] theorem appendOut_floor (bytes : List Byte) (s : State) :
    (appendOut bytes s).floor = s.floor := rfl
@[simp] theorem appendOut_gateOpen (bytes : List Byte) (s : State) :
    (appendOut bytes s).gateOpen = s.gateOpen := rfl
@[simp] theorem appendOut_lastFrame (bytes : List Byte) (s : State) :
    (appendOut bytes s).lastFrame = s.lastFrame := rfl
@[simp] theorem appendOut_cmdCount (bytes : List Byte) (s : State) :
    (appendOut bytes s).cmdCount = s.cmdCount := rfl
@[simp] theorem appendOut_inMem (bytes : List Byte) (s : State) :
    (appendOut bytes s).inMem = s.inMem := rfl
@[simp] theorem appendOut_out (bytes : List Byte) (s : State) :
    (appendOut bytes s).out = s.out ++ bytes := rfl
@[simp] theorem appendOut_cmdIn (bytes : List Byte) (s : State) :
    (appendOut bytes s).cmdIn = s.cmdIn := rfl
@[simp] theorem appendOut_cmdOut (bytes : List Byte) (s : State) :
    (appendOut bytes s).cmdOut = s.cmdOut := rfl
@[simp] theorem appendOut_outCap (bytes : List Byte) (s : State) :
    (appendOut bytes s).outCap = s.outCap := rfl
@[simp] theorem appendOut_extraPolicy (bytes : List Byte) (s : State) :
    (appendOut bytes s).extraPolicy = s.extraPolicy := rfl
@[simp] theorem appendOut_draws (bytes : List Byte) (s : State) :
    (appendOut bytes s).draws = s.draws := rfl
@[simp] theorem appendOut_schedule (bytes : List Byte) (s : State) :
    (appendOut bytes s).schedule = s.schedule := rfl
@[simp] theorem appendOut_replies (bytes : List Byte) (s : State) :
    (appendOut bytes s).replies = s.replies := rfl

/-! ### `setLastFrame` -/

@[simp] theorem setLastFrame_phase (f : Word) (s : State) :
    (setLastFrame f s).phase = s.phase := rfl
@[simp] theorem setLastFrame_mode (f : Word) (s : State) :
    (setLastFrame f s).mode = s.mode := rfl
@[simp] theorem setLastFrame_errCode (f : Word) (s : State) :
    (setLastFrame f s).errCode = s.errCode := rfl
@[simp] theorem setLastFrame_errInfo (f : Word) (s : State) :
    (setLastFrame f s).errInfo = s.errInfo := rfl
@[simp] theorem setLastFrame_cfgDelay (f : Word) (s : State) :
    (setLastFrame f s).cfgDelay = s.cfgDelay := rfl
@[simp] theorem setLastFrame_cfgFlags (f : Word) (s : State) :
    (setLastFrame f s).cfgFlags = s.cfgFlags := rfl
@[simp] theorem setLastFrame_inLen (f : Word) (s : State) :
    (setLastFrame f s).inLen = s.inLen := rfl
@[simp] theorem setLastFrame_inOffset (f : Word) (s : State) :
    (setLastFrame f s).inOffset = s.inOffset := rfl
@[simp] theorem setLastFrame_outLen (f : Word) (s : State) :
    (setLastFrame f s).outLen = s.outLen := rfl
@[simp] theorem setLastFrame_delay (f : Word) (s : State) :
    (setLastFrame f s).delay = s.delay := rfl
@[simp] theorem setLastFrame_floor (f : Word) (s : State) :
    (setLastFrame f s).floor = s.floor := rfl
@[simp] theorem setLastFrame_gateOpen (f : Word) (s : State) :
    (setLastFrame f s).gateOpen = s.gateOpen := rfl
@[simp] theorem setLastFrame_lastFrame (f : Word) (s : State) :
    (setLastFrame f s).lastFrame = f := rfl
@[simp] theorem setLastFrame_cmdCount (f : Word) (s : State) :
    (setLastFrame f s).cmdCount = s.cmdCount := rfl
@[simp] theorem setLastFrame_inMem (f : Word) (s : State) :
    (setLastFrame f s).inMem = s.inMem := rfl
@[simp] theorem setLastFrame_out (f : Word) (s : State) :
    (setLastFrame f s).out = s.out := rfl
@[simp] theorem setLastFrame_cmdIn (f : Word) (s : State) :
    (setLastFrame f s).cmdIn = s.cmdIn := rfl
@[simp] theorem setLastFrame_cmdOut (f : Word) (s : State) :
    (setLastFrame f s).cmdOut = s.cmdOut := rfl
@[simp] theorem setLastFrame_outCap (f : Word) (s : State) :
    (setLastFrame f s).outCap = s.outCap := rfl
@[simp] theorem setLastFrame_extraPolicy (f : Word) (s : State) :
    (setLastFrame f s).extraPolicy = s.extraPolicy := rfl
@[simp] theorem setLastFrame_draws (f : Word) (s : State) :
    (setLastFrame f s).draws = s.draws := rfl
@[simp] theorem setLastFrame_schedule (f : Word) (s : State) :
    (setLastFrame f s).schedule = s.schedule := rfl
@[simp] theorem setLastFrame_replies (f : Word) (s : State) :
    (setLastFrame f s).replies = s.replies := rfl

/-! ### `openGate` -/

@[simp] theorem openGate_phase (s : State) :
    (openGate s).phase = s.phase := rfl
@[simp] theorem openGate_mode (s : State) :
    (openGate s).mode = s.mode := rfl
@[simp] theorem openGate_errCode (s : State) :
    (openGate s).errCode = s.errCode := rfl
@[simp] theorem openGate_errInfo (s : State) :
    (openGate s).errInfo = s.errInfo := rfl
@[simp] theorem openGate_cfgDelay (s : State) :
    (openGate s).cfgDelay = s.cfgDelay := rfl
@[simp] theorem openGate_cfgFlags (s : State) :
    (openGate s).cfgFlags = s.cfgFlags := rfl
@[simp] theorem openGate_inLen (s : State) :
    (openGate s).inLen = s.inLen := rfl
@[simp] theorem openGate_inOffset (s : State) :
    (openGate s).inOffset = s.inOffset := rfl
@[simp] theorem openGate_outLen (s : State) :
    (openGate s).outLen = s.outLen := rfl
@[simp] theorem openGate_delay (s : State) :
    (openGate s).delay = s.delay := rfl
@[simp] theorem openGate_floor (s : State) :
    (openGate s).floor = s.floor := rfl
@[simp] theorem openGate_gateOpen (s : State) :
    (openGate s).gateOpen = true := rfl
@[simp] theorem openGate_lastFrame (s : State) :
    (openGate s).lastFrame = s.lastFrame := rfl
@[simp] theorem openGate_cmdCount (s : State) :
    (openGate s).cmdCount = s.cmdCount := rfl
@[simp] theorem openGate_inMem (s : State) :
    (openGate s).inMem = s.inMem := rfl
@[simp] theorem openGate_out (s : State) :
    (openGate s).out = s.out := rfl
@[simp] theorem openGate_cmdIn (s : State) :
    (openGate s).cmdIn = s.cmdIn := rfl
@[simp] theorem openGate_cmdOut (s : State) :
    (openGate s).cmdOut = s.cmdOut := rfl
@[simp] theorem openGate_outCap (s : State) :
    (openGate s).outCap = s.outCap := rfl
@[simp] theorem openGate_extraPolicy (s : State) :
    (openGate s).extraPolicy = s.extraPolicy := rfl
@[simp] theorem openGate_draws (s : State) :
    (openGate s).draws = s.draws := rfl
@[simp] theorem openGate_schedule (s : State) :
    (openGate s).schedule = s.schedule := rfl
@[simp] theorem openGate_replies (s : State) :
    (openGate s).replies = s.replies := rfl

/-! ### `growDelay` -/

@[simp] theorem growDelay_phase (f : Word) (s : State) :
    (growDelay f s).phase = s.phase := rfl
@[simp] theorem growDelay_mode (f : Word) (s : State) :
    (growDelay f s).mode = s.mode := rfl
@[simp] theorem growDelay_errCode (f : Word) (s : State) :
    (growDelay f s).errCode = s.errCode := rfl
@[simp] theorem growDelay_errInfo (f : Word) (s : State) :
    (growDelay f s).errInfo = s.errInfo := rfl
@[simp] theorem growDelay_cfgDelay (f : Word) (s : State) :
    (growDelay f s).cfgDelay = s.cfgDelay := rfl
@[simp] theorem growDelay_cfgFlags (f : Word) (s : State) :
    (growDelay f s).cfgFlags = s.cfgFlags := rfl
@[simp] theorem growDelay_inLen (f : Word) (s : State) :
    (growDelay f s).inLen = s.inLen := rfl
@[simp] theorem growDelay_inOffset (f : Word) (s : State) :
    (growDelay f s).inOffset = s.inOffset := rfl
@[simp] theorem growDelay_outLen (f : Word) (s : State) :
    (growDelay f s).outLen = s.outLen := rfl
@[simp] theorem growDelay_delay (f : Word) (s : State) :
    (growDelay f s).delay = s.delay + s.cfgDelay.signExtend 64 := rfl
@[simp] theorem growDelay_floor (f : Word) (s : State) :
    (growDelay f s).floor = f := rfl
@[simp] theorem growDelay_gateOpen (f : Word) (s : State) :
    (growDelay f s).gateOpen = s.gateOpen := rfl
@[simp] theorem growDelay_lastFrame (f : Word) (s : State) :
    (growDelay f s).lastFrame = s.lastFrame := rfl
@[simp] theorem growDelay_cmdCount (f : Word) (s : State) :
    (growDelay f s).cmdCount = s.cmdCount := rfl
@[simp] theorem growDelay_inMem (f : Word) (s : State) :
    (growDelay f s).inMem = s.inMem := rfl
@[simp] theorem growDelay_out (f : Word) (s : State) :
    (growDelay f s).out = s.out := rfl
@[simp] theorem growDelay_cmdIn (f : Word) (s : State) :
    (growDelay f s).cmdIn = s.cmdIn := rfl
@[simp] theorem growDelay_cmdOut (f : Word) (s : State) :
    (growDelay f s).cmdOut = s.cmdOut := rfl
@[simp] theorem growDelay_outCap (f : Word) (s : State) :
    (growDelay f s).outCap = s.outCap := rfl
@[simp] theorem growDelay_extraPolicy (f : Word) (s : State) :
    (growDelay f s).extraPolicy = s.extraPolicy := rfl
@[simp] theorem growDelay_draws (f : Word) (s : State) :
    (growDelay f s).draws = s.draws := rfl
@[simp] theorem growDelay_schedule (f : Word) (s : State) :
    (growDelay f s).schedule = s.schedule := rfl
@[simp] theorem growDelay_replies (f : Word) (s : State) :
    (growDelay f s).replies = s.replies := rfl

/-! ### `setDraws` -/

@[simp] theorem setDraws_phase (n : Nat) (s : State) :
    (setDraws n s).phase = s.phase := rfl
@[simp] theorem setDraws_mode (n : Nat) (s : State) :
    (setDraws n s).mode = s.mode := rfl
@[simp] theorem setDraws_errCode (n : Nat) (s : State) :
    (setDraws n s).errCode = s.errCode := rfl
@[simp] theorem setDraws_errInfo (n : Nat) (s : State) :
    (setDraws n s).errInfo = s.errInfo := rfl
@[simp] theorem setDraws_cfgDelay (n : Nat) (s : State) :
    (setDraws n s).cfgDelay = s.cfgDelay := rfl
@[simp] theorem setDraws_cfgFlags (n : Nat) (s : State) :
    (setDraws n s).cfgFlags = s.cfgFlags := rfl
@[simp] theorem setDraws_inLen (n : Nat) (s : State) :
    (setDraws n s).inLen = s.inLen := rfl
@[simp] theorem setDraws_inOffset (n : Nat) (s : State) :
    (setDraws n s).inOffset = s.inOffset := rfl
@[simp] theorem setDraws_outLen (n : Nat) (s : State) :
    (setDraws n s).outLen = s.outLen := rfl
@[simp] theorem setDraws_delay (n : Nat) (s : State) :
    (setDraws n s).delay = s.delay := rfl
@[simp] theorem setDraws_floor (n : Nat) (s : State) :
    (setDraws n s).floor = s.floor := rfl
@[simp] theorem setDraws_gateOpen (n : Nat) (s : State) :
    (setDraws n s).gateOpen = s.gateOpen := rfl
@[simp] theorem setDraws_lastFrame (n : Nat) (s : State) :
    (setDraws n s).lastFrame = s.lastFrame := rfl
@[simp] theorem setDraws_cmdCount (n : Nat) (s : State) :
    (setDraws n s).cmdCount = s.cmdCount := rfl
@[simp] theorem setDraws_inMem (n : Nat) (s : State) :
    (setDraws n s).inMem = s.inMem := rfl
@[simp] theorem setDraws_out (n : Nat) (s : State) :
    (setDraws n s).out = s.out := rfl
@[simp] theorem setDraws_cmdIn (n : Nat) (s : State) :
    (setDraws n s).cmdIn = s.cmdIn := rfl
@[simp] theorem setDraws_cmdOut (n : Nat) (s : State) :
    (setDraws n s).cmdOut = s.cmdOut := rfl
@[simp] theorem setDraws_outCap (n : Nat) (s : State) :
    (setDraws n s).outCap = s.outCap := rfl
@[simp] theorem setDraws_extraPolicy (n : Nat) (s : State) :
    (setDraws n s).extraPolicy = s.extraPolicy := rfl
@[simp] theorem setDraws_draws (n : Nat) (s : State) :
    (setDraws n s).draws = n := rfl
@[simp] theorem setDraws_schedule (n : Nat) (s : State) :
    (setDraws n s).schedule = s.schedule := rfl
@[simp] theorem setDraws_replies (n : Nat) (s : State) :
    (setDraws n s).replies = s.replies := rfl

/-! ### `setSchedule` -/

@[simp] theorem setSchedule_phase (l : List Turn) (s : State) :
    (setSchedule l s).phase = s.phase := rfl
@[simp] theorem setSchedule_mode (l : List Turn) (s : State) :
    (setSchedule l s).mode = s.mode := rfl
@[simp] theorem setSchedule_errCode (l : List Turn) (s : State) :
    (setSchedule l s).errCode = s.errCode := rfl
@[simp] theorem setSchedule_errInfo (l : List Turn) (s : State) :
    (setSchedule l s).errInfo = s.errInfo := rfl
@[simp] theorem setSchedule_cfgDelay (l : List Turn) (s : State) :
    (setSchedule l s).cfgDelay = s.cfgDelay := rfl
@[simp] theorem setSchedule_cfgFlags (l : List Turn) (s : State) :
    (setSchedule l s).cfgFlags = s.cfgFlags := rfl
@[simp] theorem setSchedule_inLen (l : List Turn) (s : State) :
    (setSchedule l s).inLen = s.inLen := rfl
@[simp] theorem setSchedule_inOffset (l : List Turn) (s : State) :
    (setSchedule l s).inOffset = s.inOffset := rfl
@[simp] theorem setSchedule_outLen (l : List Turn) (s : State) :
    (setSchedule l s).outLen = s.outLen := rfl
@[simp] theorem setSchedule_delay (l : List Turn) (s : State) :
    (setSchedule l s).delay = s.delay := rfl
@[simp] theorem setSchedule_floor (l : List Turn) (s : State) :
    (setSchedule l s).floor = s.floor := rfl
@[simp] theorem setSchedule_gateOpen (l : List Turn) (s : State) :
    (setSchedule l s).gateOpen = s.gateOpen := rfl
@[simp] theorem setSchedule_lastFrame (l : List Turn) (s : State) :
    (setSchedule l s).lastFrame = s.lastFrame := rfl
@[simp] theorem setSchedule_cmdCount (l : List Turn) (s : State) :
    (setSchedule l s).cmdCount = s.cmdCount := rfl
@[simp] theorem setSchedule_inMem (l : List Turn) (s : State) :
    (setSchedule l s).inMem = s.inMem := rfl
@[simp] theorem setSchedule_out (l : List Turn) (s : State) :
    (setSchedule l s).out = s.out := rfl
@[simp] theorem setSchedule_cmdIn (l : List Turn) (s : State) :
    (setSchedule l s).cmdIn = s.cmdIn := rfl
@[simp] theorem setSchedule_cmdOut (l : List Turn) (s : State) :
    (setSchedule l s).cmdOut = s.cmdOut := rfl
@[simp] theorem setSchedule_outCap (l : List Turn) (s : State) :
    (setSchedule l s).outCap = s.outCap := rfl
@[simp] theorem setSchedule_extraPolicy (l : List Turn) (s : State) :
    (setSchedule l s).extraPolicy = s.extraPolicy := rfl
@[simp] theorem setSchedule_draws (l : List Turn) (s : State) :
    (setSchedule l s).draws = s.draws := rfl
@[simp] theorem setSchedule_schedule (l : List Turn) (s : State) :
    (setSchedule l s).schedule = l := rfl
@[simp] theorem setSchedule_replies (l : List Turn) (s : State) :
    (setSchedule l s).replies = s.replies := rfl

/-! ### `addReply` -/

@[simp] theorem addReply_phase (r : Reply) (s : State) :
    (addReply r s).phase = s.phase := rfl
@[simp] theorem addReply_mode (r : Reply) (s : State) :
    (addReply r s).mode = s.mode := rfl
@[simp] theorem addReply_errCode (r : Reply) (s : State) :
    (addReply r s).errCode = s.errCode := rfl
@[simp] theorem addReply_errInfo (r : Reply) (s : State) :
    (addReply r s).errInfo = s.errInfo := rfl
@[simp] theorem addReply_cfgDelay (r : Reply) (s : State) :
    (addReply r s).cfgDelay = s.cfgDelay := rfl
@[simp] theorem addReply_cfgFlags (r : Reply) (s : State) :
    (addReply r s).cfgFlags = s.cfgFlags := rfl
@[simp] theorem addReply_inLen (r : Reply) (s : State) :
    (addReply r s).inLen = s.inLen := rfl
@[simp] theorem addReply_inOffset (r : Reply) (s : State) :
    (addReply r s).inOffset = s.inOffset := rfl
@[simp] theorem addReply_outLen (r : Reply) (s : State) :
    (addReply r s).outLen = s.outLen := rfl
@[simp] theorem addReply_delay (r : Reply) (s : State) :
    (addReply r s).delay = s.delay := rfl
@[simp] theorem addReply_floor (r : Reply) (s : State) :
    (addReply r s).floor = s.floor := rfl
@[simp] theorem addReply_gateOpen (r : Reply) (s : State) :
    (addReply r s).gateOpen = s.gateOpen := rfl
@[simp] theorem addReply_lastFrame (r : Reply) (s : State) :
    (addReply r s).lastFrame = s.lastFrame := rfl
@[simp] theorem addReply_cmdCount (r : Reply) (s : State) :
    (addReply r s).cmdCount = s.cmdCount := rfl
@[simp] theorem addReply_inMem (r : Reply) (s : State) :
    (addReply r s).inMem = s.inMem := rfl
@[simp] theorem addReply_out (r : Reply) (s : State) :
    (addReply r s).out = s.out := rfl
@[simp] theorem addReply_cmdIn (r : Reply) (s : State) :
    (addReply r s).cmdIn = s.cmdIn := rfl
@[simp] theorem addReply_cmdOut (r : Reply) (s : State) :
    (addReply r s).cmdOut = s.cmdOut := rfl
@[simp] theorem addReply_outCap (r : Reply) (s : State) :
    (addReply r s).outCap = s.outCap := rfl
@[simp] theorem addReply_extraPolicy (r : Reply) (s : State) :
    (addReply r s).extraPolicy = s.extraPolicy := rfl
@[simp] theorem addReply_draws (r : Reply) (s : State) :
    (addReply r s).draws = s.draws := rfl
@[simp] theorem addReply_schedule (r : Reply) (s : State) :
    (addReply r s).schedule = s.schedule := rfl
@[simp] theorem addReply_replies (r : Reply) (s : State) :
    (addReply r s).replies = s.replies ++ [r] := rfl

/-! ### `storeCfgDelay` -/

@[simp] theorem storeCfgDelay_phase (v : Word) (s : State) :
    (storeCfgDelay v s).phase = s.phase := rfl
@[simp] theorem storeCfgDelay_mode (v : Word) (s : State) :
    (storeCfgDelay v s).mode = s.mode := rfl
@[simp] theorem storeCfgDelay_errCode (v : Word) (s : State) :
    (storeCfgDelay v s).errCode = s.errCode := rfl
@[simp] theorem storeCfgDelay_errInfo (v : Word) (s : State) :
    (storeCfgDelay v s).errInfo = s.errInfo := rfl
@[simp] theorem storeCfgDelay_cfgDelay (v : Word) (s : State) :
    (storeCfgDelay v s).cfgDelay = v := rfl
@[simp] theorem storeCfgDelay_cfgFlags (v : Word) (s : State) :
    (storeCfgDelay v s).cfgFlags = s.cfgFlags := rfl
@[simp] theorem storeCfgDelay_inLen (v : Word) (s : State) :
    (storeCfgDelay v s).inLen = s.inLen := rfl
@[simp] theorem storeCfgDelay_inOffset (v : Word) (s : State) :
    (storeCfgDelay v s).inOffset = s.inOffset := rfl
@[simp] theorem storeCfgDelay_outLen (v : Word) (s : State) :
    (storeCfgDelay v s).outLen = s.outLen := rfl
@[simp] theorem storeCfgDelay_delay (v : Word) (s : State) :
    (storeCfgDelay v s).delay = s.delay := rfl
@[simp] theorem storeCfgDelay_floor (v : Word) (s : State) :
    (storeCfgDelay v s).floor = s.floor := rfl
@[simp] theorem storeCfgDelay_gateOpen (v : Word) (s : State) :
    (storeCfgDelay v s).gateOpen = s.gateOpen := rfl
@[simp] theorem storeCfgDelay_lastFrame (v : Word) (s : State) :
    (storeCfgDelay v s).lastFrame = s.lastFrame := rfl
@[simp] theorem storeCfgDelay_cmdCount (v : Word) (s : State) :
    (storeCfgDelay v s).cmdCount = s.cmdCount := rfl
@[simp] theorem storeCfgDelay_inMem (v : Word) (s : State) :
    (storeCfgDelay v s).inMem = s.inMem := rfl
@[simp] theorem storeCfgDelay_out (v : Word) (s : State) :
    (storeCfgDelay v s).out = s.out := rfl
@[simp] theorem storeCfgDelay_cmdIn (v : Word) (s : State) :
    (storeCfgDelay v s).cmdIn = s.cmdIn := rfl
@[simp] theorem storeCfgDelay_cmdOut (v : Word) (s : State) :
    (storeCfgDelay v s).cmdOut = s.cmdOut := rfl
@[simp] theorem storeCfgDelay_outCap (v : Word) (s : State) :
    (storeCfgDelay v s).outCap = s.outCap := rfl
@[simp] theorem storeCfgDelay_extraPolicy (v : Word) (s : State) :
    (storeCfgDelay v s).extraPolicy = s.extraPolicy := rfl
@[simp] theorem storeCfgDelay_draws (v : Word) (s : State) :
    (storeCfgDelay v s).draws = s.draws := rfl
@[simp] theorem storeCfgDelay_schedule (v : Word) (s : State) :
    (storeCfgDelay v s).schedule = s.schedule := rfl
@[simp] theorem storeCfgDelay_replies (v : Word) (s : State) :
    (storeCfgDelay v s).replies = s.replies := rfl

/-! ### `storeCfgFlags` -/

@[simp] theorem storeCfgFlags_phase (v : Word) (s : State) :
    (storeCfgFlags v s).phase = s.phase := rfl
@[simp] theorem storeCfgFlags_mode (v : Word) (s : State) :
    (storeCfgFlags v s).mode = s.mode := rfl
@[simp] theorem storeCfgFlags_errCode (v : Word) (s : State) :
    (storeCfgFlags v s).errCode = s.errCode := rfl
@[simp] theorem storeCfgFlags_errInfo (v : Word) (s : State) :
    (storeCfgFlags v s).errInfo = s.errInfo := rfl
@[simp] theorem storeCfgFlags_cfgDelay (v : Word) (s : State) :
    (storeCfgFlags v s).cfgDelay = s.cfgDelay := rfl
@[simp] theorem storeCfgFlags_cfgFlags (v : Word) (s : State) :
    (storeCfgFlags v s).cfgFlags = v.extractLsb' 0 2 := rfl
@[simp] theorem storeCfgFlags_inLen (v : Word) (s : State) :
    (storeCfgFlags v s).inLen = s.inLen := rfl
@[simp] theorem storeCfgFlags_inOffset (v : Word) (s : State) :
    (storeCfgFlags v s).inOffset = s.inOffset := rfl
@[simp] theorem storeCfgFlags_outLen (v : Word) (s : State) :
    (storeCfgFlags v s).outLen = s.outLen := rfl
@[simp] theorem storeCfgFlags_delay (v : Word) (s : State) :
    (storeCfgFlags v s).delay = s.delay := rfl
@[simp] theorem storeCfgFlags_floor (v : Word) (s : State) :
    (storeCfgFlags v s).floor = s.floor := rfl
@[simp] theorem storeCfgFlags_gateOpen (v : Word) (s : State) :
    (storeCfgFlags v s).gateOpen = s.gateOpen := rfl
@[simp] theorem storeCfgFlags_lastFrame (v : Word) (s : State) :
    (storeCfgFlags v s).lastFrame = s.lastFrame := rfl
@[simp] theorem storeCfgFlags_cmdCount (v : Word) (s : State) :
    (storeCfgFlags v s).cmdCount = s.cmdCount := rfl
@[simp] theorem storeCfgFlags_inMem (v : Word) (s : State) :
    (storeCfgFlags v s).inMem = s.inMem := rfl
@[simp] theorem storeCfgFlags_out (v : Word) (s : State) :
    (storeCfgFlags v s).out = s.out := rfl
@[simp] theorem storeCfgFlags_cmdIn (v : Word) (s : State) :
    (storeCfgFlags v s).cmdIn = s.cmdIn := rfl
@[simp] theorem storeCfgFlags_cmdOut (v : Word) (s : State) :
    (storeCfgFlags v s).cmdOut = s.cmdOut := rfl
@[simp] theorem storeCfgFlags_outCap (v : Word) (s : State) :
    (storeCfgFlags v s).outCap = s.outCap := rfl
@[simp] theorem storeCfgFlags_extraPolicy (v : Word) (s : State) :
    (storeCfgFlags v s).extraPolicy = s.extraPolicy := rfl
@[simp] theorem storeCfgFlags_draws (v : Word) (s : State) :
    (storeCfgFlags v s).draws = s.draws := rfl
@[simp] theorem storeCfgFlags_schedule (v : Word) (s : State) :
    (storeCfgFlags v s).schedule = s.schedule := rfl
@[simp] theorem storeCfgFlags_replies (v : Word) (s : State) :
    (storeCfgFlags v s).replies = s.replies := rfl

/-! ### `storeInLen` -/

@[simp] theorem storeInLen_phase (v : Word) (s : State) :
    (storeInLen v s).phase = s.phase := rfl
@[simp] theorem storeInLen_mode (v : Word) (s : State) :
    (storeInLen v s).mode = s.mode := rfl
@[simp] theorem storeInLen_errCode (v : Word) (s : State) :
    (storeInLen v s).errCode = s.errCode := rfl
@[simp] theorem storeInLen_errInfo (v : Word) (s : State) :
    (storeInLen v s).errInfo = s.errInfo := rfl
@[simp] theorem storeInLen_cfgDelay (v : Word) (s : State) :
    (storeInLen v s).cfgDelay = s.cfgDelay := rfl
@[simp] theorem storeInLen_cfgFlags (v : Word) (s : State) :
    (storeInLen v s).cfgFlags = s.cfgFlags := rfl
@[simp] theorem storeInLen_inLen (v : Word) (s : State) :
    (storeInLen v s).inLen = v := rfl
@[simp] theorem storeInLen_inOffset (v : Word) (s : State) :
    (storeInLen v s).inOffset = s.inOffset := rfl
@[simp] theorem storeInLen_outLen (v : Word) (s : State) :
    (storeInLen v s).outLen = s.outLen := rfl
@[simp] theorem storeInLen_delay (v : Word) (s : State) :
    (storeInLen v s).delay = s.delay := rfl
@[simp] theorem storeInLen_floor (v : Word) (s : State) :
    (storeInLen v s).floor = s.floor := rfl
@[simp] theorem storeInLen_gateOpen (v : Word) (s : State) :
    (storeInLen v s).gateOpen = s.gateOpen := rfl
@[simp] theorem storeInLen_lastFrame (v : Word) (s : State) :
    (storeInLen v s).lastFrame = s.lastFrame := rfl
@[simp] theorem storeInLen_cmdCount (v : Word) (s : State) :
    (storeInLen v s).cmdCount = s.cmdCount := rfl
@[simp] theorem storeInLen_inMem (v : Word) (s : State) :
    (storeInLen v s).inMem = s.inMem := rfl
@[simp] theorem storeInLen_out (v : Word) (s : State) :
    (storeInLen v s).out = s.out := rfl
@[simp] theorem storeInLen_cmdIn (v : Word) (s : State) :
    (storeInLen v s).cmdIn = s.cmdIn := rfl
@[simp] theorem storeInLen_cmdOut (v : Word) (s : State) :
    (storeInLen v s).cmdOut = s.cmdOut := rfl
@[simp] theorem storeInLen_outCap (v : Word) (s : State) :
    (storeInLen v s).outCap = s.outCap := rfl
@[simp] theorem storeInLen_extraPolicy (v : Word) (s : State) :
    (storeInLen v s).extraPolicy = s.extraPolicy := rfl
@[simp] theorem storeInLen_draws (v : Word) (s : State) :
    (storeInLen v s).draws = s.draws := rfl
@[simp] theorem storeInLen_schedule (v : Word) (s : State) :
    (storeInLen v s).schedule = s.schedule := rfl
@[simp] theorem storeInLen_replies (v : Word) (s : State) :
    (storeInLen v s).replies = s.replies := rfl

/-! ### `storeIn` -/

@[simp] theorem storeIn_phase (bytes : List Byte) (s : State) :
    (storeIn bytes s).phase = s.phase := rfl
@[simp] theorem storeIn_mode (bytes : List Byte) (s : State) :
    (storeIn bytes s).mode = s.mode := rfl
@[simp] theorem storeIn_errCode (bytes : List Byte) (s : State) :
    (storeIn bytes s).errCode = s.errCode := rfl
@[simp] theorem storeIn_errInfo (bytes : List Byte) (s : State) :
    (storeIn bytes s).errInfo = s.errInfo := rfl
@[simp] theorem storeIn_cfgDelay (bytes : List Byte) (s : State) :
    (storeIn bytes s).cfgDelay = s.cfgDelay := rfl
@[simp] theorem storeIn_cfgFlags (bytes : List Byte) (s : State) :
    (storeIn bytes s).cfgFlags = s.cfgFlags := rfl
@[simp] theorem storeIn_inLen (bytes : List Byte) (s : State) :
    (storeIn bytes s).inLen = BitVec.ofNat 32 bytes.length := rfl
@[simp] theorem storeIn_inOffset (bytes : List Byte) (s : State) :
    (storeIn bytes s).inOffset = s.inOffset := rfl
@[simp] theorem storeIn_outLen (bytes : List Byte) (s : State) :
    (storeIn bytes s).outLen = s.outLen := rfl
@[simp] theorem storeIn_delay (bytes : List Byte) (s : State) :
    (storeIn bytes s).delay = s.delay := rfl
@[simp] theorem storeIn_floor (bytes : List Byte) (s : State) :
    (storeIn bytes s).floor = s.floor := rfl
@[simp] theorem storeIn_gateOpen (bytes : List Byte) (s : State) :
    (storeIn bytes s).gateOpen = s.gateOpen := rfl
@[simp] theorem storeIn_lastFrame (bytes : List Byte) (s : State) :
    (storeIn bytes s).lastFrame = s.lastFrame := rfl
@[simp] theorem storeIn_cmdCount (bytes : List Byte) (s : State) :
    (storeIn bytes s).cmdCount = s.cmdCount := rfl
@[simp] theorem storeIn_inMem (bytes : List Byte) (s : State) :
    (storeIn bytes s).inMem = Memory.load 0 bytes := rfl
@[simp] theorem storeIn_out (bytes : List Byte) (s : State) :
    (storeIn bytes s).out = s.out := rfl
@[simp] theorem storeIn_cmdIn (bytes : List Byte) (s : State) :
    (storeIn bytes s).cmdIn = s.cmdIn := rfl
@[simp] theorem storeIn_cmdOut (bytes : List Byte) (s : State) :
    (storeIn bytes s).cmdOut = s.cmdOut := rfl
@[simp] theorem storeIn_outCap (bytes : List Byte) (s : State) :
    (storeIn bytes s).outCap = s.outCap := rfl
@[simp] theorem storeIn_extraPolicy (bytes : List Byte) (s : State) :
    (storeIn bytes s).extraPolicy = s.extraPolicy := rfl
@[simp] theorem storeIn_draws (bytes : List Byte) (s : State) :
    (storeIn bytes s).draws = s.draws := rfl
@[simp] theorem storeIn_schedule (bytes : List Byte) (s : State) :
    (storeIn bytes s).schedule = s.schedule := rfl
@[simp] theorem storeIn_replies (bytes : List Byte) (s : State) :
    (storeIn bytes s).replies = s.replies := rfl

/-! ### `storeCmdIn` -/

@[simp] theorem storeCmdIn_phase (records : List Command) (s : State) :
    (storeCmdIn records s).phase = s.phase := rfl
@[simp] theorem storeCmdIn_mode (records : List Command) (s : State) :
    (storeCmdIn records s).mode = s.mode := rfl
@[simp] theorem storeCmdIn_errCode (records : List Command) (s : State) :
    (storeCmdIn records s).errCode = s.errCode := rfl
@[simp] theorem storeCmdIn_errInfo (records : List Command) (s : State) :
    (storeCmdIn records s).errInfo = s.errInfo := rfl
@[simp] theorem storeCmdIn_cfgDelay (records : List Command) (s : State) :
    (storeCmdIn records s).cfgDelay = s.cfgDelay := rfl
@[simp] theorem storeCmdIn_cfgFlags (records : List Command) (s : State) :
    (storeCmdIn records s).cfgFlags = s.cfgFlags := rfl
@[simp] theorem storeCmdIn_inLen (records : List Command) (s : State) :
    (storeCmdIn records s).inLen = s.inLen := rfl
@[simp] theorem storeCmdIn_inOffset (records : List Command) (s : State) :
    (storeCmdIn records s).inOffset = s.inOffset := rfl
@[simp] theorem storeCmdIn_outLen (records : List Command) (s : State) :
    (storeCmdIn records s).outLen = s.outLen := rfl
@[simp] theorem storeCmdIn_delay (records : List Command) (s : State) :
    (storeCmdIn records s).delay = s.delay := rfl
@[simp] theorem storeCmdIn_floor (records : List Command) (s : State) :
    (storeCmdIn records s).floor = s.floor := rfl
@[simp] theorem storeCmdIn_gateOpen (records : List Command) (s : State) :
    (storeCmdIn records s).gateOpen = s.gateOpen := rfl
@[simp] theorem storeCmdIn_lastFrame (records : List Command) (s : State) :
    (storeCmdIn records s).lastFrame = s.lastFrame := rfl
@[simp] theorem storeCmdIn_cmdCount (records : List Command) (s : State) :
    (storeCmdIn records s).cmdCount = s.cmdCount := rfl
@[simp] theorem storeCmdIn_inMem (records : List Command) (s : State) :
    (storeCmdIn records s).inMem = s.inMem := rfl
@[simp] theorem storeCmdIn_out (records : List Command) (s : State) :
    (storeCmdIn records s).out = s.out := rfl
@[simp] theorem storeCmdIn_cmdIn (records : List Command) (s : State) :
    (storeCmdIn records s).cmdIn = records := rfl
@[simp] theorem storeCmdIn_cmdOut (records : List Command) (s : State) :
    (storeCmdIn records s).cmdOut = s.cmdOut := rfl
@[simp] theorem storeCmdIn_outCap (records : List Command) (s : State) :
    (storeCmdIn records s).outCap = s.outCap := rfl
@[simp] theorem storeCmdIn_extraPolicy (records : List Command) (s : State) :
    (storeCmdIn records s).extraPolicy = s.extraPolicy := rfl
@[simp] theorem storeCmdIn_draws (records : List Command) (s : State) :
    (storeCmdIn records s).draws = s.draws := rfl
@[simp] theorem storeCmdIn_schedule (records : List Command) (s : State) :
    (storeCmdIn records s).schedule = s.schedule := rfl
@[simp] theorem storeCmdIn_replies (records : List Command) (s : State) :
    (storeCmdIn records s).replies = s.replies := rfl

end Sys2Proof.Machine
end

