-- ==== Sys2Proof/Laws/Ops.lean ====
section
/-! SUPPORT. One lemma per shared operation that says everything it can do (spec/40_codec.md R106 to R108;
spec/42_transform.md R153 to R165; spec/41_commands.md R129). -/

namespace Sys2Proof.Machine

/-! ### Appending to OUT -/

@[simp] theorem appendOut_nil (s : State) : appendOut [] s = s := by
  simp [appendOut]

/-- Two appends are one append of both (R61). -/
theorem appendOut_appendOut (a b : List Byte) (s : State) : appendOut b (appendOut a s) = appendOut (a ++ b) s := by
  simp [appendOut, BitVec.add_assoc, BitVec.ofNat_add]

/-! ### ENCODE and EMIT -/

/-- What `ENCODE` can answer (R106). -/
theorem encodeCommand_cases (policy : ExtraPolicy) (c : Command) :
    (wellFormedCommand c = false ∧ encodeCommand policy c = .error .cmdInvalid) ∨
    (wellFormedCommand c = true ∧ c.extra = [] ∧ encodeCommand policy c = .ok (packetBytes c)) ∨
    (wellFormedCommand c = true ∧ c.extra ≠ [] ∧ policy = .fault ∧
      encodeCommand policy c = .error .extraUnencodable) ∨
    (wellFormedCommand c = true ∧ c.extra ≠ [] ∧ policy = .emit ∧ encodeCommand policy c = .ok (packetBytes c)) ∨
    (wellFormedCommand c = true ∧ c.extra ≠ [] ∧ policy = .omitLiteral ∧
      encodeCommand policy c = .ok (headerBytes c.opcode (payloadSize c) ++ payloadBytes c.payload)) := by
  unfold encodeCommand
  by_cases hb : 3 < c.extra.length ∨ 2 ^ 32 - 1 < payloadSize c
  · left
    rw [if_pos hb]
    refine ⟨?_, rfl⟩
    simp only [wellFormedCommand, Bool.and_eq_false_iff, decide_eq_false_iff_not]
    omega
  · right
    have hw : wellFormedCommand c = true := by
      simp only [wellFormedCommand, Bool.and_eq_true, decide_eq_true_eq]; omega
    rw [if_neg hb]
    by_cases hx : c.extra = []
    · left; simp [hw, hx, packetBytes]
    · right
      rw [if_neg hx]
      cases policy <;> simp [hw, hx, packetBytes]

/-- A record without extra bytes encodes as its packet under every policy (R106). -/
theorem encodeCommand_plain (policy : ExtraPolicy) (c : Command) (hw : wellFormedCommand c = true) (hx : c.extra = []) :
    encodeCommand policy c = .ok (packetBytes c) := by
  rcases encodeCommand_cases policy c with h | h | h | h | h <;> simp_all

/-- An encoding is at least the 8 header bytes (R80). -/
theorem encodeCommand_length {policy : ExtraPolicy} {c : Command} {bytes : List Byte}
    (h : encodeCommand policy c = .ok bytes) : 8 ≤ bytes.length := by
  rcases encodeCommand_cases policy c with ⟨_, e⟩ | ⟨_, _, e⟩ | ⟨_, _, _, e⟩ | ⟨_, _, _, e⟩ | ⟨_, _, _, e⟩ <;>
    rw [e] at h <;> cases h <;> simp [packetBytes, headerBytes_length]

/-- What `EMIT` can do: enter an error and write nothing, or append the encoding whole (R107, R108). -/
theorem emit_cases (c : Command) (info : Word) (s : State) :
    (∃ e, e ≠ .none ∧ encodeCommand (policyInForce s) c = .error e ∧ emit c info s = .stop (raise e info s)) ∨
    (∃ bytes, encodeCommand (policyInForce s) c = .ok bytes ∧ s.outCap.toNat < s.outLen.toNat + bytes.length ∧
      emit c info s = .stop (raise .outOverflow info s)) ∨
    (∃ bytes, encodeCommand (policyInForce s) c = .ok bytes ∧ s.outLen.toNat + bytes.length ≤ s.outCap.toNat ∧
      emit c info s = .go () (appendOut bytes s)) := by
  unfold emit
  cases h : encodeCommand (policyInForce s) c with
  | error e =>
    left
    refine ⟨e, ?_, rfl, rfl⟩
    rcases encodeCommand_cases (policyInForce s) c with ⟨_, e'⟩ | ⟨_, _, e'⟩ | ⟨_, _, _, e'⟩ | ⟨_, _, _, e'⟩ | ⟨_, _, _, e'⟩ <;>
      rw [h] at e' <;> cases e' <;> simp
  | ok bytes =>
    right
    simp only [writePacket]
    by_cases hc : s.outCap.toNat < s.outLen.toNat + bytes.length
    · left; exact ⟨bytes, rfl, hc, by rw [if_pos hc]⟩
    · right; exact ⟨bytes, rfl, by omega, by rw [if_neg hc]⟩

/-! ### Fillers -/

/-- The bytes of `n` fillers from frame `f` on (R89, R160). -/
def fillerBytes (f : Nat) : Nat → List Byte
  | 0 => []
  | n + 1 => packetBytes (filler (BitVec.ofNat 32 f)) ++ fillerBytes (f + 1) n

theorem fillerBytes_length (f n : Nat) : (fillerBytes f n).length = 28 * n := by
  induction n generalizing f with
  | zero => rfl
  | succ n ih =>
    simp only [fillerBytes, List.length_append, ih]
    simp [packetBytes, filler, headerBytes_length, payloadBytes_length]
    omega

theorem filler_encodes (policy : ExtraPolicy) (f : Word) :
    encodeCommand policy (filler f) = .ok (packetBytes (filler f)) :=
  encodeCommand_plain policy (filler f) (by simp [wellFormedCommand, payloadSize, filler]) rfl

/-- What emitting `n` fillers can do: append the first `k` of them, and then, if `k < n`, enter E_FRAME_RANGE before
the first frame past 2^32 - 1 or E_OUT_OVERFLOW before the first that does not fit (R160, R165, R225). -/
theorem emitFillers_cases (info : Word) (n f : Nat) (s : State) :
    emitFillers info n f s = .go () (appendOut (fillerBytes f n) s) ∨
    (∃ k, k < n ∧ 2 ^ 32 - 1 < f + k ∧
      emitFillers info n f s = .stop (raise .frameRange info (appendOut (fillerBytes f k) s))) ∨
    (∃ k, k < n ∧ f + k ≤ 2 ^ 32 - 1 ∧
      emitFillers info n f s = .stop (raise .outOverflow info (appendOut (fillerBytes f k) s))) := by
  induction n generalizing f s with
  | zero => left; simp [emitFillers, fillerBytes]
  | succ n ih =>
    simp only [emitFillers]
    by_cases hf : 2 ^ 32 - 1 < f
    · right; left
      exact ⟨0, by omega, by omega, by rw [if_pos hf]; simp [fillerBytes]⟩
    · rw [if_neg hf]
      rcases emit_cases (filler (BitVec.ofNat 32 f)) info s with ⟨e, _, he, _⟩ | ⟨bytes, he, _, h⟩ | ⟨bytes, he, _, h⟩
      · rw [filler_encodes] at he; cases he
      · right; right
        exact ⟨0, by omega, by omega, by simp [h, fillerBytes]⟩
      · rw [filler_encodes] at he
        cases he
        rw [h]
        rcases ih (f + 1) (appendOut (packetBytes (filler (BitVec.ofNat 32 f))) s) with h' | ⟨k, hk, hr, h'⟩ | ⟨k, hk, hr, h'⟩
        · left; simp [h', fillerBytes, appendOut_appendOut]
        · right; left
          exact ⟨k + 1, by omega, by omega, by simp [h', fillerBytes, appendOut_appendOut]⟩
        · right; right
          exact ⟨k + 1, by omega, by omega, by simp [h', fillerBytes, appendOut_appendOut]⟩

/-- Fillers whose frames are u32 and that all fit are all emitted (R160, R165). -/
theorem emitFillers_all (info : Word) (n f : Nat) (s : State) (hcap : s.outLen.toNat + 28 * n ≤ s.outCap.toNat)
    (hf : f + n ≤ 2 ^ 32) : emitFillers info n f s = .go () (appendOut (fillerBytes f n) s) := by
  induction n generalizing f s with
  | zero => simp [emitFillers, fillerBytes]
  | succ n ih =>
    have hlen : (packetBytes (filler (BitVec.ofNat 32 f))).length = 28 := by
      simp [packetBytes, filler, headerBytes_length, payloadBytes_length]
    have hemit : emit (filler (BitVec.ofNat 32 f)) info s = .go () (appendOut (packetBytes (filler (BitVec.ofNat 32 f))) s) := by
      simp only [emit, filler_encodes, writePacket]
      rw [if_neg (by omega)]
    simp only [emitFillers]
    rw [if_neg (by omega), hemit]
    simp only
    rw [ih]
    · simp [fillerBytes, appendOut_appendOut]
    · have h1 : s.outLen.toNat < 2 ^ 32 := s.outLen.isLt
      have h2 := s.outCap.toNat_lt
      simp only [appendOut_outLen, appendOut_outCap, hlen, BitVec.toNat_add, BitVec.toNat_ofNat]
      omega
    · omega

/-! ### Steps 1 and 2 -/

/-- What `ADJUST` can do (R153 to R156). -/
theorem adjust_cases (c : Command) (o : Word) (s : State) :
    (c.payload = [] ∧ adjust c o s = .stop (raise .noFrameWord o s)) ∨
    (∃ w ws, c.payload = w :: ws ∧ adjustedFrame w s.delay < s.floor.toNat ∧ adjust c o s = .stop s) ∨
    (∃ w ws, c.payload = w :: ws ∧ (s.floor.toNat : Int) ≤ adjustedFrame w s.delay ∧
      2 ^ 32 - 1 < adjustedFrame w s.delay ∧ adjust c o s = .stop (raise .frameRange o s)) ∨
    (∃ w ws f, c.payload = w :: ws ∧ s.floor.toNat ≤ f.toNat ∧ adjustedFrame w s.delay = f.toNat ∧
      adjust c o s = .go { c with payload := f :: ws } (setLastFrame f s)) := by
  unfold adjust
  match hp : c.payload with
  | [] => left; exact ⟨rfl, rfl⟩
  | w :: ws =>
    right
    simp only
    by_cases h1 : adjustedFrame w s.delay < s.floor.toNat
    · left; exact ⟨w, ws, rfl, h1, by rw [if_pos h1]⟩
    · right
      rw [if_neg h1]
      by_cases h2 : 2 ^ 32 - 1 < adjustedFrame w s.delay
      · left; exact ⟨w, ws, rfl, by omega, h2, by rw [if_pos h2]⟩
      · right
        rw [if_neg h2]
        have hf : ((BitVec.ofInt 32 (adjustedFrame w s.delay)).toNat : Int) = adjustedFrame w s.delay := by
          rw [BitVec.toNat_ofInt]
          have : (0 : Int) ≤ adjustedFrame w s.delay := by omega
          have e : adjustedFrame w s.delay % ((2 ^ 32 : Nat) : Int) = adjustedFrame w s.delay :=
            Int.emod_eq_of_lt this (by omega)
          rw [e]
          exact Int.toNat_of_nonneg this
        exact ⟨w, ws, _, rfl, by omega, hf.symm, rfl⟩

/-- What the gate can do (R157). -/
theorem passGate_cases (c : Command) (s : State) :
    (gateClosed s = false ∧ passGate c s = .go () s) ∨
    (gateClosed s = true ∧ c.opcode = opReset ∧ passGate c s = .go () (openGate s)) ∨
    (gateClosed s = true ∧ c.opcode ≠ opReset ∧ passGate c s = .stop s) := by
  unfold passGate
  cases hg : gateClosed s
  · left; simp
  · right
    by_cases hc : c.opcode = opReset
    · left; simp [hc]
    · right; simp [hc]

/-- What steps 2 and 3 can do: discard at the closed gate; or, from a state with the gate possibly opened by a RESET,
enter an error with nothing written, or append the encoding (R157, R158). -/
theorem gateAndEmit_cases (c : Command) (o : Word) (s : State) :
    (gateClosed s = true ∧ c.opcode ≠ opReset ∧ gateAndEmit c o s = .stop s) ∨
    ∃ u, (u = s ∨ (u = openGate s ∧ gateConfigured s = true ∧ c.opcode = opReset)) ∧
      ((∃ e, e ≠ .none ∧ gateAndEmit c o s = .stop (raise e o u)) ∨
       (∃ bytes, encodeCommand (policyInForce s) c = .ok bytes ∧ s.outLen.toNat + bytes.length ≤ s.outCap.toNat ∧
         gateAndEmit c o s = .go () (appendOut bytes u))) := by
  unfold gateAndEmit
  rcases passGate_cases c s with ⟨h, e⟩ | ⟨h, hc, e⟩ | ⟨h, hc, e⟩
  · right
    refine ⟨s, .inl rfl, ?_⟩
    rw [e]
    rcases emit_cases c o s with ⟨e, h1, _, h⟩ | ⟨_, _, _, h⟩ | ⟨b, hb, hf, h⟩
    · left; exact ⟨e, h1, h⟩
    · left; exact ⟨_, by simp, h⟩
    · right; exact ⟨b, hb, hf, h⟩
  · right
    refine ⟨openGate s, .inr ⟨rfl, ?_, hc⟩, ?_⟩
    · simp [gateClosed] at h; exact h.1
    · rw [e]
      rcases emit_cases c o (openGate s) with ⟨e, h1, _, h⟩ | ⟨_, _, _, h⟩ | ⟨b, hb, hf, h⟩
      · left; exact ⟨e, h1, h⟩
      · left; exact ⟨_, by simp, h⟩
      · right; exact ⟨b, hb, hf, h⟩
  · left
    exact ⟨h, hc, by rw [e]⟩

/-- What step 4 can do (R159 to R162). -/
theorem handleReset_cases (f o : Word) (s : State) :
    (delayPerReset s = 0 ∧ handleReset f o s = s) ∨
    (delayPerReset s ≠ 0 ∧
      handleReset f o s = growDelay f (appendOut (fillerBytes f.toNat (fillerCount s)) s)) ∨
    (delayPerReset s ≠ 0 ∧ ∃ k e, e ≠ .none ∧ k < fillerCount s ∧
      handleReset f o s = raise e o (appendOut (fillerBytes f.toNat k) s)) := by
  unfold handleReset
  by_cases hd : delayPerReset s = 0
  · left; exact ⟨hd, by rw [if_pos hd]⟩
  · right
    rw [if_neg hd]
    rcases emitFillers_cases o (fillerCount s) f.toNat s with h | ⟨k, hk, _, h⟩ | ⟨k, hk, _, h⟩ <;> rw [h]
    · left; exact ⟨hd, rfl⟩
    · right; exact ⟨hd, k, _, by simp, hk, rfl⟩
    · right; exact ⟨hd, k, _, by simp, hk, rfl⟩

/-- What the end of a TRANSFORM run can do (R165). -/
theorem transformEnd_cases (s : State) :
    (trailerConfigured s = false ∧ transformEnd s = finishRun s) ∨
    (trailerConfigured s = true ∧
      transformEnd s = finishRun (appendOut (fillerBytes (s.lastFrame.toNat + 1) trailerCount) s)) ∨
    (trailerConfigured s = true ∧ ∃ k e, e ≠ .none ∧ k < trailerCount ∧
      transformEnd s = raise e s.inLen (appendOut (fillerBytes (s.lastFrame.toNat + 1) k) s)) := by
  unfold transformEnd
  cases ht : trailerConfigured s
  · left; simp
  · right
    simp only [if_true]
    rcases emitFillers_cases s.inLen trailerCount (s.lastFrame.toNat + 1) s with h | ⟨k, hk, _, h⟩ | ⟨k, hk, _, h⟩ <;> rw [h]
    · left; exact ⟨trivial, rfl⟩
    · right; exact ⟨trivial, k, _, by simp, hk, rfl⟩
    · right; exact ⟨trivial, k, _, by simp, hk, rfl⟩

/-- What ENCODE_STEP can do with a record (R194). -/
theorem encodeRecord_cases (c : Command) (s : State) :
    (∃ e, e ≠ .none ∧ encodeRecord c s = raise e s.cmdCount s) ∨
    (∃ bytes, encodeCommand (policyInForce s) c = .ok bytes ∧ s.outLen.toNat + bytes.length ≤ s.outCap.toNat ∧
      encodeRecord c s = countEncoded (appendOut bytes s)) := by
  unfold encodeRecord
  rcases emit_cases c s.cmdCount s with ⟨e, h1, _, h⟩ | ⟨_, _, _, h⟩ | ⟨b, hb, h1, h⟩ <;> rw [h]
  · left; exact ⟨_, h1, rfl⟩
  · left; exact ⟨_, by simp, rfl⟩
  · right; exact ⟨b, hb, h1, rfl⟩

/-- What running a packet command in a mode can do (R129, R194, R195, R200). -/
theorem runCommand_cases (c : Command) (f : Command → Word → State → State) (s : State) :
    (s.phase ≠ .running ∧ runCommand c f s = .next s) ∨
    (s.phase = .running ∧ s.mode = .none ∧ runCommand c f s = .fault .runningWithoutMode) ∨
    (s.phase = .running ∧ s.mode = .transform ∧ runCommand c f s = .next (f c s.inOffset (advance c s))) ∨
    (s.phase = .running ∧ s.mode = .decode ∧ runCommand c f s = .next (deliver c (advance c s))) ∨
    (s.phase = .running ∧ s.mode = .encode ∧ runCommand c f s = .next (encodeRecord c s)) := by
  unfold runCommand
  cases s.phase <;> cases s.mode <;> simp

/-- A FRAMER or CTRL instruction never refuses. -/
theorem exec_ne_refused (i : Instr) (s : State) (r : Refusal) : exec i s ≠ .refused r := by
  have key : ∀ c f, runCommand c f s ≠ .refused r := by
    intro c f
    rcases runCommand_cases c f s with ⟨_, h⟩ | ⟨_, _, h⟩ | ⟨_, _, h⟩ | ⟨_, _, h⟩ | ⟨_, _, h⟩ <;> simp [h]
  cases i
  case ctrlNop => simp [exec, execCtrlNop]
  case startTransform => simp [exec, execStartTransform]
  case startEncode => simp [exec, execStartEncode]
  case startDecode => simp [exec, execStartDecode]
  all_goals exact key _ _

end Sys2Proof.Machine
end

