-- ==== Sys2Proof/Laws/Account.lean ====
section
/-! SUPPORT. Laws of the account of a TRANSFORM run: encodings and RESET counts of lists of commands put end to end, and
of fillers (spec/20_memory.md R68; spec/30_encoding.md R89). -/

namespace Sys2Proof.Machine

/-- The encodings of two lists of commands, put end to end (R68). -/
theorem encodeAll_append {policy : ExtraPolicy} {cs ds : List Command} {x y : List Byte}
    (hx : encodeAll policy cs = some x) (hy : encodeAll policy ds = some y) :
    encodeAll policy (cs ++ ds) = some (x ++ y) := by
  induction cs generalizing x with
  | nil => simp only [encodeAll, Option.some.injEq] at hx; simpa [← hx] using hy
  | cons c cs ih =>
    simp only [encodeAll, List.cons_append] at hx ⊢
    cases hc : encodeCommand policy c with
    | error e => simp [hc] at hx
    | ok bytes =>
      cases hr : encodeAll policy cs with
      | none => simp [hc, hr] at hx
      | some rest =>
        simp only [hc, hr, Option.some.injEq] at hx
        simp [ih hr, ← hx]

/-- One command's encoding is the whole of its list's. -/
theorem encodeAll_singleton {policy : ExtraPolicy} {c : Command} {bytes : List Byte}
    (h : encodeCommand policy c = .ok bytes) : encodeAll policy [c] = some bytes := by
  simp [encodeAll, h]

/-- The `n` fillers from frame `f` on (R160, R165). -/
def fillers (f n : Nat) : List Command :=
  (List.range n).map fun i => filler (BitVec.ofNat 32 (f + i))

theorem fillers_succ (f n : Nat) : fillers f (n + 1) = filler (BitVec.ofNat 32 f) :: fillers (f + 1) n := by
  simp [fillers, List.range_succ_eq_map, Nat.add_comm, Nat.add_left_comm, Function.comp_def]

/-- Fillers encode as their bytes under every policy (R89). -/
theorem encodeAll_fillers (policy : ExtraPolicy) (f n : Nat) :
    encodeAll policy (fillers f n) = some (fillerBytes f n) := by
  induction n generalizing f with
  | zero => rfl
  | succ n ih => rw [fillers_succ, encodeAll, filler_encodes, ih]; rfl

@[simp] theorem resetCount_append (cs ds : List Command) : resetCount (cs ++ ds) = resetCount cs + resetCount ds :=
  List.countP_append

/-- No filler is a RESET (R89). -/
@[simp] theorem resetCount_fillers (f n : Nat) : resetCount (fillers f n) = 0 := by
  simp [resetCount, fillers, List.countP_map, filler, opInput, opReset]

end Sys2Proof.Machine
end

