-- ==== Sys2Proof/Laws/Step.lean ====
section
/-! SUPPORT. What a packet command, a fetch and a FRAMER step can do, said once (spec/40_codec.md R100 to R104;
spec/42_transform.md R151; spec/43_host_control.md R194, R195, R200), and what the FRAMER leaves alone
(spec/20_memory.md R60, R61; spec/10_state.md R33, R37). -/

namespace Sys2Proof.Machine

/-! ### Instructions as commands -/

/-- What a packet instruction does, by its class (R120 to R128). -/
theorem exec_of_command {i : Instr} {c : Command} (h : commandOf i = some c) (s : State) :
    exec i s = runCommand c transformFrame s ∨ exec i s = runCommand c transformPlain s ∨
    (c.opcode = opReset ∧ exec i s = runCommand c transformReset s) := by
  cases i <;> simp only [commandOf, reduceCtorEq, Option.some.injEq] at h <;> subst h
  case info => exact .inr (.inl rfl)
  case unknown => exact .inr (.inl rfl)
  case reset => exact .inr (.inr ⟨rfl, rfl⟩)
  all_goals exact .inl rfl

/-- The record of a fetched packet: its size is the payload section's, and it is well-formed (R103). -/
theorem decodePacket_command (op : Word) (body : List Byte) :
    ∃ c, commandOf (decodePacket op body) = some c ∧ c.opcode = op ∧ payloadSize c = body.length ∧ c.extra.length ≤ 3 :=
  ⟨_, commandOf_instrOfCommand _, rfl, payloadSize_split op body, payloadExtra_length body⟩

/-! ### Fetching -/

/-- Everything DECODE_AT can find (R100 to R103). -/
theorem fetch_cases (s : State) :
    (s.inLen.toNat ≤ s.inOffset.toNat ∧ fetch s = .endOfStream) ∨
    (s.inOffset.toNat < s.inLen.toNat ∧ s.inLen.toNat < s.inOffset.toNat + 8 ∧ fetch s = .truncatedHeader) ∨
    (s.inOffset.toNat + 8 ≤ s.inLen.toNat ∧ ∃ d, fetch s = .truncatedPayload d) ∨
    (∃ op body d, s.inOffset.toNat + 8 + body.length ≤ s.inLen.toNat ∧ fetch s = .packet op body d) := by
  unfold fetch
  simp only
  split
  · left; exact ⟨by omega, rfl⟩
  · split
    · right; left; exact ⟨by omega, by omega, rfl⟩
    · split
      · right; right; left; exact ⟨by omega, _, rfl⟩
      · right; right; right
        refine ⟨_, _, _, ?_, rfl⟩
        rw [readBytes_length]
        omega

/-! ### What the FRAMER leaves alone -/

/-- The inputs of a run are unchanged, OUT and CMD_OUT only grow, and an open gate stays open. -/
structure KeepsInputs (s t : State) : Prop where
  cfgDelay    : t.cfgDelay = s.cfgDelay
  cfgFlags    : t.cfgFlags = s.cfgFlags
  inLen       : t.inLen = s.inLen
  inMem       : t.inMem = s.inMem
  cmdIn       : t.cmdIn = s.cmdIn
  outCap      : t.outCap = s.outCap
  extraPolicy : t.extraPolicy = s.extraPolicy
  mode        : t.mode = s.mode
  schedule    : t.schedule = s.schedule
  replies     : t.replies = s.replies
  out         : ∃ bytes, t.out = s.out ++ bytes
  cmdOut      : ∃ cs, t.cmdOut = s.cmdOut ++ cs
  gateOpen    : s.gateOpen = true → t.gateOpen = true

namespace KeepsInputs

theorem refl (s : State) : KeepsInputs s s := by
  constructor <;> simp

theorem trans {s t u : State} (a : KeepsInputs s t) (b : KeepsInputs t u) : KeepsInputs s u where
  cfgDelay := b.cfgDelay.trans a.cfgDelay
  cfgFlags := b.cfgFlags.trans a.cfgFlags
  inLen := b.inLen.trans a.inLen
  inMem := b.inMem.trans a.inMem
  cmdIn := b.cmdIn.trans a.cmdIn
  outCap := b.outCap.trans a.outCap
  extraPolicy := b.extraPolicy.trans a.extraPolicy
  mode := b.mode.trans a.mode
  schedule := b.schedule.trans a.schedule
  replies := b.replies.trans a.replies
  out := by
    obtain ⟨x, hx⟩ := a.out
    obtain ⟨y, hy⟩ := b.out
    exact ⟨x ++ y, by rw [hy, hx, List.append_assoc]⟩
  cmdOut := by
    obtain ⟨x, hx⟩ := a.cmdOut
    obtain ⟨y, hy⟩ := b.cmdOut
    exact ⟨x ++ y, by rw [hy, hx, List.append_assoc]⟩
  gateOpen := fun h => b.gateOpen (a.gateOpen h)

theorem raise (e : ErrCode) (info : Word) (s : State) : KeepsInputs s (raise e info s) := by constructor <;> simp
theorem finishRun (s : State) : KeepsInputs s (finishRun s) := by constructor <;> simp
theorem advance (c : Command) (s : State) : KeepsInputs s (advance c s) := by constructor <;> simp
theorem countEncoded (s : State) : KeepsInputs s (countEncoded s) := by constructor <;> simp
theorem deliver (c : Command) (s : State) : KeepsInputs s (deliver c s) := by constructor <;> simp
theorem appendOut (bytes : List Byte) (s : State) : KeepsInputs s (appendOut bytes s) := by constructor <;> simp
theorem setLastFrame (f : Word) (s : State) : KeepsInputs s (setLastFrame f s) := by constructor <;> simp
theorem openGate (s : State) : KeepsInputs s (openGate s) := by constructor <;> simp
theorem growDelay (f : Word) (s : State) : KeepsInputs s (growDelay f s) := by constructor <;> simp
theorem setDraws (n : Nat) (s : State) : KeepsInputs s (setDraws n s) := by constructor <;> simp

theorem emit (c : Command) (info : Word) (s : State) : KeepsInputs s (emit c info s).state := by
  rcases emit_cases c info s with ⟨e, _, _, h⟩ | ⟨_, _, _, h⟩ | ⟨bytes, _, _, h⟩ <;> rw [h] <;> simp only [Flow.state]
  · exact raise ..
  · exact raise ..
  · exact appendOut ..

theorem emitFillers (info : Word) (n f : Nat) (s : State) : KeepsInputs s (emitFillers info n f s).state := by
  rcases emitFillers_cases info n f s with h | ⟨k, _, _, h⟩ | ⟨k, _, _, h⟩ <;> rw [h] <;> simp only [Flow.state]
  · exact appendOut ..
  · exact (appendOut ..).trans (raise ..)
  · exact (appendOut ..).trans (raise ..)

theorem adjust (c : Command) (o : Word) (s : State) : KeepsInputs s (adjust c o s).state := by
  rcases adjust_cases c o s with ⟨_, h⟩ | ⟨_, _, _, _, h⟩ | ⟨_, _, _, _, _, h⟩ | ⟨_, _, _, _, _, _, h⟩ <;>
    rw [h] <;> simp only [Flow.state]
  · exact raise ..
  · exact refl _
  · exact raise ..
  · exact setLastFrame ..

theorem gateAndEmit (c : Command) (o : Word) (s : State) : KeepsInputs s (gateAndEmit c o s).state := by
  unfold Machine.gateAndEmit
  rcases passGate_cases c s with ⟨_, h⟩ | ⟨_, _, h⟩ | ⟨_, _, h⟩ <;> rw [h]
  · exact emit ..
  · exact (openGate s).trans (emit ..)
  · exact refl _

theorem handleReset (f o : Word) (s : State) : KeepsInputs s (handleReset f o s) := by
  unfold Machine.handleReset
  split
  · exact refl _
  · have h := emitFillers o (fillerCount s) f.toNat s
    cases e : Machine.emitFillers o (fillerCount s) f.toNat s with
    | stop s' => simpa [e, Flow.state] using h
    | go _ s' =>
      rw [e] at h
      exact KeepsInputs.trans h (growDelay f s')

theorem transformPlain (c : Command) (o : Word) (s : State) : KeepsInputs s (transformPlain c o s) :=
  gateAndEmit c o s

theorem transformFrame (c : Command) (o : Word) (s : State) : KeepsInputs s (transformFrame c o s) := by
  unfold Machine.transformFrame
  have h := adjust c o s
  cases e : Machine.adjust c o s with
  | stop s' => simpa [e, Flow.state] using h
  | go c' s' =>
    rw [e] at h
    exact KeepsInputs.trans h (gateAndEmit c' o s')

theorem transformReset (c : Command) (o : Word) (s : State) : KeepsInputs s (transformReset c o s) := by
  unfold Machine.transformReset
  have h := adjust c o s
  cases e : Machine.adjust c o s with
  | stop s' => simpa [e, Flow.state] using h
  | go c' s' =>
    rw [e] at h
    have h' := gateAndEmit c' o s'
    simp only
    cases e' : Machine.gateAndEmit c' o s' with
    | stop s'' =>
      rw [e'] at h'
      exact KeepsInputs.trans h h'
    | go _ s'' =>
      rw [e'] at h'
      simp only
      cases c'.payload with
      | nil => exact KeepsInputs.trans h h'
      | cons f _ => exact (KeepsInputs.trans h h').trans (handleReset f o s'')

theorem transformEnd (s : State) : KeepsInputs s (transformEnd s) := by
  unfold Machine.transformEnd
  split
  · have h := emitFillers s.inLen trailerCount (s.lastFrame.toNat + 1) s
    cases e : Machine.emitFillers s.inLen trailerCount (s.lastFrame.toNat + 1) s with
    | stop s' => simpa [e, Flow.state] using h
    | go _ s' =>
      rw [e] at h
      exact KeepsInputs.trans h (finishRun s')
  · exact finishRun s

theorem encodeRecord (c : Command) (s : State) : KeepsInputs s (encodeRecord c s) := by
  unfold Machine.encodeRecord
  have h := emit c s.cmdCount s
  cases e : Machine.emit c s.cmdCount s with
  | stop s' => simpa [e, Flow.state] using h
  | go _ s' =>
    rw [e] at h
    exact KeepsInputs.trans h (countEncoded s')

/-- A packet command keeps the inputs (R60, R129). -/
theorem exec_packet {i : Instr} {c : Command} (hc : commandOf i = some c) {s t : State} (h : exec i s = .next t) :
    KeepsInputs s t := by
  have key : ∀ f, (∀ o u, KeepsInputs u (f c o u)) → runCommand c f s = .next t → KeepsInputs s t := by
    intro f hf hr
    rcases runCommand_cases c f s with ⟨_, e⟩ | ⟨_, _, e⟩ | ⟨_, _, e⟩ | ⟨_, _, e⟩ | ⟨_, _, e⟩ <;> rw [e] at hr <;> cases hr
    · exact refl _
    · exact (advance c s).trans (hf _ _)
    · exact (advance c s).trans (deliver c _)
    · exact encodeRecord c s
  rcases exec_of_command hc s with e | e | ⟨_, e⟩ <;> rw [e] at h
  · exact key _ (transformFrame c) h
  · exact key _ (transformPlain c) h
  · exact key _ (transformReset c) h

/-- A FRAMER step keeps the inputs. -/
theorem framerStep {s t : State} (h : framerStep s = .next t) : KeepsInputs s t := by
  have hfetch : ∀ atEnd : State → State, (∀ u, KeepsInputs u (atEnd u)) → fetchStep atEnd s = .next t →
      KeepsInputs s t := by
    intro atEnd he hs
    unfold fetchStep at hs
    split at hs
    · cases hs; exact he s
    · cases hs; exact raise ..
    · cases hs; exact (setDraws _ s).trans (raise ..)
    · rename_i op body d _
      obtain ⟨c, hc, _⟩ := decodePacket_command op body
      exact (setDraws d s).trans (exec_packet hc hs)
  unfold Machine.framerStep at h
  split at h
  · split at h
    · exact hfetch _ transformEnd h
    · exact hfetch _ finishRun h
    · unfold encodeStep at h
      split at h
      · cases h; exact finishRun s
      · split at h
        · exact exec_packet (commandOf_instrOfCommand _) h
        · cases h
    · cases h
  all_goals cases h; exact refl _

end KeepsInputs

/-! ### One step -/

/-- A step is the host's operation or the FRAMER's step, with the turn taken off the schedule (R226). -/
theorem step_cases (s : State) :
    (∃ op rest, s.schedule = .host op :: rest ∧ step s = hostStep op (setSchedule rest s)) ∨
    ((∀ op rest, s.schedule ≠ .host op :: rest) ∧ step s = framerStep (setSchedule s.schedule.tail s)) := by
  unfold step turnStep
  match h : s.schedule with
  | [] =>
    right
    refine ⟨by simp, ?_⟩
    have : setSchedule [] s = s := by rw [← h]; rfl
    simp [this]
  | .framer :: rest => right; simp
  | .host op :: rest => left; exact ⟨op, rest, rfl, rfl⟩

/-- A run of `n + 1` steps whose first answers a next state is the run of `n` steps from there. -/
theorem core_run_next {s t : State} (h : step s = .next t) (n : Nat) :
    Sys2Proof.core.run (n + 1) s = Sys2Proof.core.run n t := by
  have h' : Sys2Proof.core.step s = .next t := h
  simp only [Host.Core.run, h']

end Sys2Proof.Machine
end

