-- ==== Sys2Proof/Laws/Host.lean ====
section
/-! SUPPORT. What a CTRL write and a host operation can do, said once (spec/43_host_control.md R190 to R197;
spec/10_state.md R37; spec/70_reset_and_hazards.md R250). -/

namespace Sys2Proof.Machine

/-- A start command does nothing while RUNNING and starts a run otherwise (R191, R192). -/
theorem startUnlessRunning_cases (m : Mode) (s : State) :
    (s.phase = .running ∧ startUnlessRunning m s = s) ∨ (s.phase ≠ .running ∧ startUnlessRunning m s = startRun m s) := by
  unfold startUnlessRunning
  cases h : s.phase <;> simp

/-- A configuration write does nothing while RUNNING and stores otherwise (R37). -/
theorem storeUnlessRunning_cases (store : State → State) (s : State) :
    (s.phase = .running ∧ storeUnlessRunning store s = s) ∨ (s.phase ≠ .running ∧ storeUnlessRunning store s = store s) := by
  unfold storeUnlessRunning
  cases h : s.phase <;> simp

/-- What the command in a CTRL word can do: nothing, or start a run, the latter only with a command number other than 0
outside RUNNING (R93, R191). -/
theorem exec_decodeCtrl_cases (v : Word) (s : State) :
    exec (decodeCtrl v) s = .next s ∨
    ∃ m, m ≠ .none ∧ v.toNat % 4 ≠ 0 ∧ s.phase ≠ .running ∧ exec (decodeCtrl v) s = .next (startRun m s) := by
  have hv : (v.extractLsb' 0 2).toNat = v.toNat % 4 := by simp [BitVec.extractLsb'_toNat]
  have start : ∀ (m : Mode) (i : Instr), m ≠ .none → v.toNat % 4 ≠ 0 → exec i s = .next (startUnlessRunning m s) →
      exec i s = .next s ∨
      ∃ m, m ≠ .none ∧ v.toNat % 4 ≠ 0 ∧ s.phase ≠ .running ∧ exec i s = .next (startRun m s) := by
    intro m i hm hn he
    rcases startUnlessRunning_cases m s with ⟨_, e⟩ | ⟨hp, e⟩ <;> rw [e] at he
    · left; exact he
    · right; exact ⟨m, hm, hn, hp, he⟩
  unfold decodeCtrl
  simp only
  generalize v.extractLsb' 0 2 = k at hv
  split
  · left; rfl
  · exact start .transform _ (by simp) (by rw [← hv]; simp) rfl
  · exact start .encode _ (by simp) (by rw [← hv]; simp) rfl
  · exact start .decode _ (by simp) (by rw [← hv]; simp) rfl

/-- What a host operation that answers a next state can do. -/
theorem hostStep_cases {op : HostOp} {s t : State} (h : hostStep op s = .next t) :
    t = s ∨ (∃ r, t = addReply r s) ∨
    (∃ v, op = .regWrite 0 v ∧ ∃ m, m ≠ .none ∧ v.toNat % 4 ≠ 0 ∧ s.phase ≠ .running ∧ t = startRun m s) ∨
    (s.phase ≠ .running ∧
      ((∃ v, t = storeCfgDelay v s) ∨ (∃ v, t = storeCfgFlags v s) ∨ (∃ v, t = storeInLen v s) ∨
       (∃ bytes, bytes.length ≤ 2 ^ 32 - 1 ∧ t = storeIn bytes s) ∨ (∃ l, t = storeCmdIn l s))) ∨
    (op = .hardReset ∧ t = hardReset s) := by
  cases op with
  | regRead i => cases h; exact .inr (.inl ⟨_, rfl⟩)
  | outRead i => cases h; exact .inr (.inl ⟨_, rfl⟩)
  | cmdOutRead i => cases h; exact .inr (.inl ⟨_, rfl⟩)
  | hardReset => cases h; exact .inr (.inr (.inr (.inr ⟨rfl, rfl⟩)))
  | loadIn bytes =>
    simp only [hostStep, loadIn] at h
    split at h
    · cases h
    · split at h
      · cases h
      · cases h
        exact .inr (.inr (.inr (.inl ⟨by assumption, .inr (.inr (.inr (.inl ⟨bytes, by omega, rfl⟩)))⟩)))
  | setCmdIn l =>
    simp only [hostStep, setCmdIn] at h
    split at h
    · cases h
    · cases h
      exact .inr (.inr (.inr (.inl ⟨by assumption, .inr (.inr (.inr (.inr ⟨l, rfl⟩)))⟩)))
  | regWrite i v =>
    simp only [hostStep, regWrite] at h
    split at h
    · rename_i hi
      have : i = 0 := by revert hi; revert i; decide
      subst this
      rcases exec_decodeCtrl_cases v s with e | ⟨m, h1, h2, h3, e⟩ <;> rw [e] at h <;> cases h
      · exact .inl rfl
      · exact .inr (.inr (.inl ⟨v, rfl, m, h1, h2, h3, rfl⟩))
    · cases h
      rcases storeUnlessRunning_cases (storeCfgDelay v) s with ⟨_, e⟩ | ⟨hp, e⟩ <;> rw [e]
      · exact .inl rfl
      · exact .inr (.inr (.inr (.inl ⟨hp, .inl ⟨v, rfl⟩⟩)))
    · cases h
      rcases storeUnlessRunning_cases (storeCfgFlags v) s with ⟨_, e⟩ | ⟨hp, e⟩ <;> rw [e]
      · exact .inl rfl
      · exact .inr (.inr (.inr (.inl ⟨hp, .inr (.inl ⟨v, rfl⟩)⟩)))
    · cases h
      rcases storeUnlessRunning_cases (storeInLen v) s with ⟨_, e⟩ | ⟨hp, e⟩ <;> rw [e]
      · exact .inl rfl
      · exact .inr (.inr (.inr (.inl ⟨hp, .inr (.inr (.inl ⟨v, rfl⟩))⟩)))
    all_goals cases h; exact .inl rfl

end Sys2Proof.Machine
end

