-- ==== Sys2Proof/Laws/PerInstr.lean ====
section
/-! SUPPORT. Statements made per instruction, one lemma per constructor of Instr (spec/30_encoding.md R85, R93). -/

namespace Sys2Proof.Laws.OfCommand

/-- A well-formed packet instruction is the one its own command record stands for: it keeps its opcode's name, its
payload and its extra bytes (R85, R88). -/
def Statement (i : Instr) : Prop :=
  WellFormed i = true → ∀ c, commandOf i = some c → instrOfCommand c = i

theorem input (p : List Word) (x : List Byte) : Statement (.input p x) := by
  intro _ c h; cases h; rfl

theorem noinput (p : List Word) (x : List Byte) : Statement (.noinput p x) := by
  intro _ c h; cases h; rfl

theorem info (p : List Word) (x : List Byte) : Statement (.info p x) := by
  intro _ c h; cases h; rfl

theorem mode (p : List Word) (x : List Byte) : Statement (.mode p x) := by
  intro _ c h; cases h; rfl

theorem crc (p : List Word) (x : List Byte) : Statement (.crc p x) := by
  intro _ c h; cases h; rfl

theorem loadSavestate (p : List Word) (x : List Byte) : Statement (.loadSavestate p x) := by
  intro _ c h; cases h; rfl

theorem reset (p : List Word) (x : List Byte) : Statement (.reset p x) := by
  intro _ c h; cases h; rfl

theorem flipPlayers (p : List Word) (x : List Byte) : Statement (.flipPlayers p x) := by
  intro _ c h; cases h; rfl

theorem unknown (op : Word) (p : List Word) (x : List Byte) : Statement (.unknown op p x) := by
  intro hw c h
  cases h
  simp only [WellFormed, isUnknownOpcode, knownOpcodes, Bool.and_eq_true, Bool.not_eq_true',
    List.contains_eq_mem, decide_eq_false_iff_not, List.mem_cons, List.not_mem_nil, or_false, not_or] at hw
  simp [instrOfCommand, hw]

theorem ctrlNop (r : BitVec 30) : Statement (.ctrlNop r) := by
  intro _ c h; cases h

theorem startTransform (r : BitVec 30) : Statement (.startTransform r) := by
  intro _ c h; cases h

theorem startEncode (r : BitVec 30) : Statement (.startEncode r) := by
  intro _ c h; cases h

theorem startDecode (r : BitVec 30) : Statement (.startDecode r) := by
  intro _ c h; cases h

end Sys2Proof.Laws.OfCommand
end

