-- ==== Sys2Proof/Tests/Slice0.lean ====
section
/-! SUPPORT. Tests on fixed values. Expected values come from spec/95_test_vectors.md (named V-… or W1), or from carrying
out the rule named; then, for each obligation with hypotheses, a state and operands that meet them. -/

namespace Sys2Proof.Machine

/-! ### Helpers -/

/-- The bytes of words written as numbers, most significant byte first (R9). -/
def hexBytes (ws : List Nat) : List Byte :=
  ws.flatMap fun w => [w / 2 ^ 24, w / 2 ^ 16, w / 2 ^ 8, w].map (BitVec.ofNat 8)

/-- The reset state in a run of mode `m`, EXTRA_POLICY = Fault. -/
def inRun (m : Mode) : State :=
  { State.reset with phase := .running, mode := m, extraPolicy := some .fault }

/-- A run of mode `m` with `bytes` loaded. -/
def runOver (m : Mode) (bytes : List Byte) : State :=
  { inRun m with inMem := Memory.load 0 bytes, inLen := BitVec.ofNat 32 bytes.length }

/-- The state of spec/95 §2.3 after RESET(0) with D = 3: DELAY = 3, FLOOR = 0. -/
def afterReset3 : State :=
  { inRun .transform with cfgDelay := 3, delay := 3 }

/-- The reset state with one host operation to come. -/
def hosting (op : HostOp) : State :=
  { State.reset with schedule := [.host op] }

/-- What a step or a meaning leaves, seen through `f`; none for a stop. -/
def seen {α : Type} (f : State → α) : Host.Outcome State Fault Refusal → Option α
  | .next t => some (f t)
  | .fault _ => none
  | .refused _ => none

/-- OUT and LAST_FRAME. -/
def outLast (t : State) : List Byte × Word := (t.out, t.lastFrame)

/-- PHASE, ERR_CODE and ERR_INFO. -/
def status (t : State) : Phase × ErrCode × Word := (t.phase, t.errCode, t.errInfo)

/-! ### WellFormed refuses an ill-formed term, for each check -/

theorem test_wf_four_extra : WellFormed (.input [0] [1, 2, 3, 4]) = false := by decide
theorem test_wf_size_past_u32 (p : List Word) (h : p.length = 2 ^ 30) : WellFormed (.crc p []) = false := by
  rw [WellFormed, Bool.eq_false_iff, ne_eq, wellFormedCommand_iff]
  simp only [payloadSize, List.length_nil]
  omega
theorem test_wf_known_under_unknown :
    [0x03, 0x04, 0x22, 0x26, 0x40, 0x42, 0x46, 0x60].map (fun op => WellFormed (.unknown op [] [])) =
      List.replicate 8 false := by decide
theorem test_wf_accepts : WellFormed (.unknown 0x103 [1] [1, 2, 3]) = true := by decide

/-! ### Decoding words written out from the spec's encodings -/

/-- W1. -/
theorem test_decode_input : decode (.stream
    [0, 0, 0, 3, 0, 0, 0, 0x14, 0, 0, 0, 0, 0, 0, 0, 0, 0, 0, 0, 1, 0, 0, 0, 0, 0, 0, 0, 0]) =
    .ok (.input [0, 0, 1, 0, 0] []) [] := by decide
/-- V-K2. -/
theorem test_decode_noinput : decode (.stream [0, 0, 0, 4, 0, 0, 0, 4, 0, 0, 0, 5]) = .ok (.noinput [5] []) [] := by decide
/-- V-K3. -/
theorem test_decode_info : decode (.stream [0, 0, 0, 0x22, 0, 0, 0, 4, 0, 0, 0, 1]) = .ok (.info [1] []) [] := by decide
/-- V-K4. -/
theorem test_decode_mode : decode (.stream [0, 0, 0, 0x26, 0, 0, 0, 8, 0, 0, 0, 7, 0, 0, 0, 1]) =
    .ok (.mode [7, 1] []) [] := by decide
/-- V-C6. -/
theorem test_decode_crc : decode (.stream [0, 0, 0, 0x40, 0, 0, 0, 3, 1, 2, 3]) = .ok (.crc [] [1, 2, 3]) [] := by decide
/-- V-K6. -/
theorem test_decode_load_savestate : decode (.stream [0, 0, 0, 0x42, 0, 0, 0, 4, 0, 0, 0, 0x0A]) =
    .ok (.loadSavestate [10] []) [] := by decide
/-- V-C2, with two bytes after it. -/
theorem test_decode_reset : decode (.stream [0, 0, 0, 0x46, 0, 0, 0, 4, 0, 0, 0, 7, 0xAA, 0xBB]) =
    .ok (.reset [7] []) [0xAA, 0xBB] := by decide
/-- V-K8. -/
theorem test_decode_flip_players : decode (.stream [0, 0, 0, 0x60, 0, 0, 0, 4, 0, 0, 0, 0x0C]) =
    .ok (.flipPlayers [12] []) [] := by decide
/-- V-C7. -/
theorem test_decode_unknown : decode (.stream [0, 0, 0, 0x77, 0, 0, 0, 6, 0xDE, 0xAD, 0xBE, 0xEF, 1, 2]) =
    .ok (.unknown 0x77 [0xDEADBEEF] [1, 2]) [] := by decide
/-- V-K12: one bit off INPUT. -/
theorem test_decode_unknown_near_input : decode (.stream [0, 0, 1, 3, 0, 0, 0, 4, 0, 0, 0, 1]) =
    .ok (.unknown 0x103 [1] []) [] := by decide
/-- R93. -/
theorem test_decode_ctrl : [(0 : Word), 1, 2, 3].map (fun v => decode (.ctrl v)) =
    [.ok (.ctrlNop 0) [], .ok (.startTransform 0) [], .ok (.startEncode 0) [], .ok (.startDecode 0) []] := by decide
/-- V-C9, V-C10, V-C11 and R100. -/
theorem test_decode_truncated :
    decode (.stream [0, 0, 0, 0, 0, 0, 0]) = .truncatedHeader ∧
    decode (.stream [0, 0, 0, 3, 0, 0, 0, 0x14, 0, 0, 0, 0]) = .truncatedPayload ∧
    decode (.stream [0, 0, 0, 0x77, 0xFF, 0xFF, 0xFF, 0xFF]) = .truncatedPayload ∧
    decode (.stream []) = .endOfStream := by decide

/-! ### The table's words (log entries 1 and 2) -/

theorem test_table_rows :
    [0x03, 0x04, 0x22, 0x26, 0x40, 0x42, 0x46, 0x60].map (decodeTableWord 32) =
      [some (.input [] []), some (.noinput [] []), some (.info [] []), some (.mode [] []), some (.crc [] []),
       some (.loadSavestate [] []), some (.reset [] []), some (.flipPlayers [] [])] ∧
    decodeTableWord 0 0 = some (.unknown 0 [] []) ∧
    [0, 1, 2, 3].map (decodeTableWord 8) =
      [some (.ctrlNop 0), some (.startTransform 0), some (.startEncode 0), some (.startDecode 0)] := by decide

theorem test_table_step_packet :
    seen (fun t => (t.out, t.inOffset)) (step (State.reset.withFetchWord 32 0x22)) =
      some ([0, 0, 0, 0x22, 0, 0, 0, 0], 8) := by decide

theorem test_table_step_ctrl :
    seen (fun t => (t.phase, t.mode)) (step (State.reset.withFetchWord 8 3)) = some (.running, .decode) := by decide

/-! ### One step of each instruction -/

/-- V-K1. -/
theorem test_input : seen outLast (exec (.input [1, 0, 0x100, 0, 0] []) afterReset3) =
    some (hexBytes [0x03, 0x14, 4, 0, 0x100, 0, 0], 4) := by decide
/-- V-T12: E_FRAME_RANGE. -/
theorem test_input_range : seen status (exec (.input [0xFFFFFFFD, 0, 0, 0, 0] []) { afterReset3 with inOffset := 12 }) =
    some (.error, .frameRange, 12) := by decide
/-- V-K2. -/
theorem test_noinput : seen outLast (exec (.noinput [2] []) afterReset3) = some (hexBytes [0x04, 0x04, 5], 5) := by decide
/-- V-K3. -/
theorem test_info : seen outLast (exec (.info [1] []) afterReset3) = some (hexBytes [0x22, 0x04, 1], 0) := by decide
/-- V-K4. -/
theorem test_mode : seen outLast (exec (.mode [4, 1] []) afterReset3) = some (hexBytes [0x26, 0x08, 7, 1], 7) := by decide
/-- R123's example: FLOOR = 5, DELAY = 0, MODE(4, 1) is discarded. -/
theorem test_mode_floor : seen outLast (exec (.mode [4, 1] []) { inRun .transform with floor := 5, lastFrame := 9 }) =
    some ([], 9) := by decide
/-- V-K5. -/
theorem test_crc : seen outLast (exec (.crc [10, 0x12345678] []) afterReset3) =
    some (hexBytes [0x40, 0x08, 0x0D, 0x12345678], 13) := by decide
/-- V-K6. -/
theorem test_load_savestate : seen outLast (exec (.loadSavestate [7] []) afterReset3) =
    some (hexBytes [0x42, 0x04, 0x0A], 10) := by decide
/-- V-K7. -/
theorem test_reset : seen (fun t => (outLast t, t.delay, t.floor)) (exec (.reset [2] []) afterReset3) =
    some ((hexBytes [0x46, 0x04, 5, 0x03, 0x14, 5, 0, 0, 0, 0, 0x03, 0x14, 6, 0, 0, 0, 0, 0x03, 0x14, 7, 0, 0, 0, 0], 5),
      6, 5) := by decide
/-- V-T4's first RESET: D = -2, no fillers, DELAY = -2, FLOOR = 10. -/
theorem test_reset_negative :
    seen (fun t => (t.out, t.delay.toInt, t.floor)) (exec (.reset [10] []) { inRun .transform with cfgDelay := 0xFFFFFFFE }) =
      some (hexBytes [0x46, 0x04, 10], -2, 10) := by decide
/-- V-K8. -/
theorem test_flip_players : seen outLast (exec (.flipPlayers [9] []) afterReset3) =
    some (hexBytes [0x60, 0x04, 0x0C], 12) := by decide
/-- V-K11. -/
theorem test_unknown : seen outLast (exec (.unknown 0xFFFFFFFF [1, 2, 3] []) afterReset3) =
    some (hexBytes [0xFFFFFFFF, 0x0C, 1, 2, 3], 0) := by decide
/-- V-T21's first packet: the size counts bytes that are not written. -/
theorem test_unknown_omit :
    seen (fun t => t.out) (exec (.unknown 0x77 [0xDEADBEEF] [1, 2]) { inRun .transform with extraPolicy := some .omitLiteral }) =
      some (hexBytes [0x77, 6, 0xDEADBEEF]) := by decide
/-- V-H12. -/
theorem test_ctrl_nop : seen (fun t => t) (step (hosting (.regWrite 0 0))) = some State.reset := by decide
/-- V-H13. -/
theorem test_start_transform : seen (fun t => (t.phase, t.mode)) (step (hosting (.regWrite 0 0xFFFFFFFD))) =
    some (.running, .transform) := by decide
/-- V-H9: no restart while RUNNING. -/
theorem test_start_encode_running :
    seen (fun t => t.mode) (exec (.startEncode 0) (inRun .transform)) = some .transform := by decide
/-- R194. -/
theorem test_start_encode : seen (fun t => (t.phase, t.mode)) (exec (.startEncode 0) { State.reset with phase := .error }) =
    some (.running, .encode) := by decide
/-- V-H15: OUT is emptied and LAST_FRAME is 0. -/
theorem test_start_decode :
    seen outLast (exec (.startDecode 0) { State.reset with phase := .done, out := [1], outLen := 1, lastFrame := 4 }) =
      some ([], 0) := by decide

/-! ### Steps of the FRAMER and of the host -/

/-- V-C8: the second packet, at offset 14. -/
theorem test_step_unaligned :
    seen (fun t => (t.cmdOut, t.inOffset))
      (step { runOver .decode (hexBytes [0x77, 6, 0xDEADBEEF, 0x01020000, 0x00460000, 0x00040000] ++ [0, 0]) with inOffset := 14 }) =
      some ([⟨0x46, [0], []⟩], 26) := by decide
/-- V-C18: the record after RESET(0) has four extra bytes. -/
theorem test_step_encode_invalid :
    seen status (step { inRun .encode with cmdIn := [⟨0x46, [0], []⟩, ⟨0x03, [0], [1, 2, 3, 4]⟩], cmdCount := 1 }) =
      some (.error, .cmdInvalid, 1) := by decide
/-- V-C17. -/
theorem test_step_encode_fault :
    seen status (step { inRun .encode with cmdIn := [⟨0x77, [1], [0xAA]⟩], extraPolicy := some .fault }) =
      some (.error, .extraUnencodable, 0) := by decide
/-- V-T8: 60 fillers, and the first of them is FILLER(1). -/
theorem test_step_trailer :
    seen (fun t => (t.phase, t.outLen, t.out.take 28)) (step { inRun .transform with cfgFlags := 2 }) =
      some (.done, 1680, hexBytes [0x03, 0x14, 1, 0, 0, 0, 0]) := by decide
/-- V-H2: STATUS and ERR_INFO after V-T12. -/
theorem test_status_word :
    regRead 1 { State.reset with phase := .error, mode := .transform, errCode := .frameRange, errInfo := 12 } = 0x407 := by
  decide
/-- V-H6: the halves of DELAY = -4. -/
theorem test_delay_halves :
    [8, 9].map (fun i => regRead i { State.reset with delay := -4 }) = [0xFFFFFFFC, 0xFFFFFFFF] := by decide
/-- V-H7. -/
theorem test_write_flags : seen (regRead 4) (step (hosting (.regWrite 4 0xFFFFFFFF))) = some 3 := by decide
/-- V-H16: IN is unchanged. -/
theorem test_hard_reset :
    seen (fun t => (t.phase, t.inLen, t.inMem)) (step { runOver .decode [7] with schedule := [.host .hardReset] }) =
      some (.idle, 0, [(0, 7)]) := by decide
/-- LoadIn of R196's example. -/
theorem test_load_in :
    seen (fun t => (t.inLen, Memory.read t.inMem 3, Memory.read t.inMem 12))
      (step (hosting (.loadIn [0, 0, 0, 0x46, 0, 0, 0, 4, 0, 0, 0, 0]))) = some (12, some 0x46, none) := by decide

/-- The reset state's memory has the canonical form. -/
theorem test_reset_memory_wf : Memory.wf State.reset.inMem := by decide

/-! ### Witnesses: what meets the hypotheses of the obligations, each clause at a boundary value -/

theorem turn_of_empty (s : State) (h : s.schedule = []) : framersTurn s := by
  intro op rest h'
  simp [h] at h'

/-- An adjusted frame of exactly FLOOR, through an open gate. -/
theorem test_witness_FrameCommandEmitted :
    let s := { afterReset3 with floor := 4, cfgFlags := 1, gateOpen := true, outCap := ⟨12, by decide⟩ }
    (Instr.noinput [1] [], (0x04 : Word)) ∈ frameForms [1] [] ∧ WellFormed (.noinput [1] []) = true ∧
    runningIn .transform s ∧ adjustsTo s 1 (4 : Word).toNat ∧ s.floor.toNat ≤ (4 : Word).toNat ∧ gatePasses s ∧
    encodable s [] ∧ fits (wireBytes (policyInForce s) 0x04 [4] []) s := by
  unfold runningIn adjustsTo gatePasses encodable fits; decide

theorem test_witness_PlainCommandEmitted :
    let s := { inRun .transform with extraPolicy := some .emit, outCap := ⟨11, by decide⟩ }
    (∀ f ∈ [(Instr.info [] [1, 2, 3], (0x22 : Word)), (.unknown 0x77 [] [1, 2, 3], 0x77)],
      f ∈ plainForms 0x77 [] [1, 2, 3] ∧ WellFormed f.1 = true ∧ fits (wireBytes (policyInForce s) f.2 [] [1, 2, 3]) s) ∧
    runningIn .transform s ∧ gatePasses s ∧ encodable s [1, 2, 3] := by
  unfold runningIn gatePasses encodable fits; decide

theorem test_witness_ResetEmittedWithoutDelay :
    let s := { inRun .transform with floor := 7, cfgFlags := 1, outCap := ⟨12, by decide⟩ }
    WellFormed (.reset [7] []) = true ∧ runningIn .transform s ∧ s.cfgDelay = 0 ∧ adjustsTo s 7 (7 : Word).toNat ∧
    s.floor.toNat ≤ (7 : Word).toNat ∧ encodable s [] ∧ fits (wireBytes (policyInForce s) 0x46 [7] []) s := by
  unfold runningIn adjustsTo encodable fits; decide

/-- The last filler at frame 2^32 - 1 (D = 3), and no filler (D = -2). -/
theorem test_witness_ResetEmittedWithFillers :
    ∀ d ∈ [(3 : Word), 0xFFFFFFFE],
    let s := { inRun .transform with cfgDelay := d, outCap := ⟨96, by decide⟩ }
    WellFormed (.reset [0xFFFFFFFD] []) = true ∧ runningIn .transform s ∧ s.cfgDelay ≠ 0 ∧
    adjustsTo s 0xFFFFFFFD (0xFFFFFFFD : Word).toNat ∧ s.floor.toNat ≤ (0xFFFFFFFD : Word).toNat ∧ encodable s [] ∧
    (0xFFFFFFFD : Word).toNat + s.cfgDelay.toInt.toNat ≤ 2 ^ 32 ∧
    fits (wireBytes (policyInForce s) 0x46 [0xFFFFFFFD] [] ++
      fillersFrom (0xFFFFFFFD : Word).toNat s.cfgDelay.toInt.toNat) s := by
  intro d hd
  simp only [List.mem_cons, List.not_mem_nil, or_false] at hd
  unfold runningIn adjustsTo encodable fits
  rcases hd with rfl | rfl <;> decide

/-- V-T13. -/
theorem test_witness_FillerRangeError :
    let s := { inRun .transform with cfgDelay := 3, outCap := ⟨68, by decide⟩ }
    WellFormed (.reset [0xFFFFFFFE] []) = true ∧ runningIn .transform s ∧
    adjustsTo s 0xFFFFFFFE (0xFFFFFFFE : Word).toNat ∧ s.floor.toNat ≤ (0xFFFFFFFE : Word).toNat ∧ encodable s [] ∧
    2 ^ 32 < (0xFFFFFFFE : Word).toNat + s.cfgDelay.toInt.toNat ∧
    fits (wireBytes (policyInForce s) 0x46 [0xFFFFFFFE] [] ++
      fillersFrom (0xFFFFFFFE : Word).toNat (2 ^ 32 - (0xFFFFFFFE : Word).toNat)) s := by
  unfold runningIn adjustsTo encodable fits; decide

/-- One byte too few for the second filler. -/
theorem test_witness_FillerOverflowError :
    let s := { inRun .transform with cfgDelay := 3, outCap := ⟨67, by decide⟩ }
    WellFormed (.reset [5] []) = true ∧ runningIn .transform s ∧ adjustsTo s 5 (5 : Word).toNat ∧
    s.floor.toNat ≤ (5 : Word).toNat ∧ encodable s [] ∧ 1 < s.cfgDelay.toInt.toNat ∧ (5 : Word).toNat + 1 ≤ 2 ^ 32 - 1 ∧
    fits (wireBytes (policyInForce s) 0x46 [5] [] ++ fillersFrom (5 : Word).toNat 1) s ∧
    ¬ fits (wireBytes (policyInForce s) 0x46 [5] [] ++ fillersFrom (5 : Word).toNat (1 + 1)) s := by
  unfold runningIn adjustsTo encodable fits; decide

/-- One below FLOOR (V-T10's RESET(1)), and a negative adjusted frame. -/
theorem test_witness_FloorDiscards :
    (let s := { afterReset3 with floor := 5 }
     (Instr.reset [1] [], (0x46 : Word)) ∈ (Instr.reset [1] [], 0x46) :: frameForms [1] [] ∧ runningIn .transform s ∧
     ((1 : Word).toNat : Int) + s.delay.toInt < s.floor.toNat) ∧
    (let s := { inRun .transform with delay := -2 }
     (Instr.crc [1] [9], (0x40 : Word)) ∈ (Instr.reset [1] [9], 0x46) :: frameForms [1] [9] ∧ runningIn .transform s ∧
     ((1 : Word).toNat : Int) + s.delay.toInt < s.floor.toNat) := by
  unfold runningIn; decide

/-- V-T17: the gate is closed. -/
theorem test_witness_NoFrameWordError :
    let s := { inRun .transform with cfgFlags := 1 }
    (Instr.input [] [1, 2, 3], (0x03 : Word)) ∈ (Instr.reset [] [1, 2, 3], 0x46) :: frameForms [] [1, 2, 3] ∧
    runningIn .transform s := by
  unfold runningIn; decide

/-- V-T12: the sum is exactly 2^32. -/
theorem test_witness_FrameRangeError :
    (Instr.input [0xFFFFFFFD] [], (0x03 : Word)) ∈ (Instr.reset [0xFFFFFFFD] [], 0x46) :: frameForms [0xFFFFFFFD] [] ∧
    runningIn .transform afterReset3 ∧
    (2 ^ 32 - 1 : Int) < ((0xFFFFFFFD : Word).toNat : Int) + afterReset3.delay.toInt := by
  unfold runningIn; decide

/-- V-T5 and V-T19. -/
theorem test_witness_ClosedGateDiscards :
    let s := { inRun .transform with cfgFlags := 1 }
    runningIn .transform s ∧ s.cfgFlags.getLsbD 0 = true ∧ s.gateOpen = false ∧
    ((Instr.input [0] [], (0x03 : Word)) ∈ frameForms [0] [] ∧ adjustsTo s 0 (0 : Word).toNat ∧
      s.floor.toNat ≤ (0 : Word).toNat) ∧
    ((Instr.unknown 0x77 [0xDEADBEEF] [1, 2], (0x77 : Word)) ∈ plainForms 0x77 [0xDEADBEEF] [1, 2] ∧
      WellFormed (.unknown 0x77 [0xDEADBEEF] [1, 2]) = true) := by
  unfold runningIn adjustsTo; decide

/-- One extra byte; V-T18. -/
theorem test_witness_ExtraUnencodableError :
    let s := inRun .transform
    runningIn .transform s ∧ ([1] : List Byte) ≠ [] ∧ policyInForce s = .fault ∧ gatePasses s ∧
    adjustsTo s 0 (0 : Word).toNat ∧ s.floor.toNat ≤ (0 : Word).toNat ∧
    (WellFormed (.mode [0] [1]) = true ∧ (Instr.mode [0] [1], (0x26 : Word)) ∈ frameForms [0] [1]) ∧
    WellFormed (.reset [0] [1]) = true ∧
    (WellFormed (.info [] [1]) = true ∧ (Instr.info [] [1], (0x22 : Word)) ∈ plainForms 0 [] [1]) := by
  unfold runningIn adjustsTo gatePasses; decide

/-- One byte too few. -/
theorem test_witness_OutOverflowError :
    let s := { inRun .transform with outCap := ⟨11, by decide⟩ }
    let u := { inRun .transform with outCap := ⟨7, by decide⟩ }
    runningIn .transform s ∧ runningIn .transform u ∧ encodable s [] ∧ gatePasses s ∧ gatePasses u ∧
    adjustsTo s 0 (0 : Word).toNat ∧ s.floor.toNat ≤ (0 : Word).toNat ∧
    (WellFormed (.crc [0] []) = true ∧ (Instr.crc [0] [], (0x40 : Word)) ∈ frameForms [0] [] ∧
      ¬ fits (wireBytes (policyInForce s) 0x40 [0] []) s) ∧
    (WellFormed (.reset [0] []) = true ∧ ¬ fits (wireBytes (policyInForce s) 0x46 [0] []) s) ∧
    (WellFormed (.info [] []) = true ∧ (Instr.info [] [], (0x22 : Word)) ∈ plainForms 0 [] [] ∧
      ¬ fits (wireBytes (policyInForce u) 0x22 [] []) u) := by
  unfold runningIn adjustsTo gatePasses encodable fits; decide

/-- The first, the last and a middle form. -/
theorem test_witness_DecodeModeDelivers :
    (∀ f ∈ [(Instr.input [] [1], (0x03 : Word)), (.reset [] [1], 0x46), (.unknown 0 [] [1], 0)],
      f ∈ packetForms 0 [] [1]) ∧ runningIn .decode (inRun .decode) := by
  unfold runningIn; decide

theorem test_witness_EncodeModeEmits :
    let s := { inRun .encode with extraPolicy := some .emit, outCap := ⟨11, by decide⟩ }
    (Instr.reset [] [1, 2, 3], (0x46 : Word)) ∈ packetForms 0 [] [1, 2, 3] ∧ runningIn .encode s ∧
    ([1, 2, 3] : List Byte).length ≤ 3 ∧ 4 * ([] : List Word).length + ([1, 2, 3] : List Byte).length ≤ 2 ^ 32 - 1 ∧
    encodable s [1, 2, 3] ∧ fits (wireBytes (policyInForce s) 0x46 [] [1, 2, 3]) s := by
  unfold runningIn encodable fits; decide

/-- V-C18, V-C17 and V-C19's shapes. -/
theorem test_witness_EncodeModeErrors :
    let s := { inRun .encode with outCap := ⟨7, by decide⟩ }
    runningIn .encode s ∧
    ((Instr.input [0] [1, 2, 3, 4], (0x03 : Word)) ∈ packetForms 0 [0] [1, 2, 3, 4] ∧ 3 < ([1, 2, 3, 4] : List Byte).length) ∧
    ((Instr.unknown 0x77 [1] [0xAA], (0x77 : Word)) ∈ packetForms 0x77 [1] [0xAA] ∧ ([0xAA] : List Byte) ≠ [] ∧
      policyInForce s = .fault) ∧
    ((Instr.info [] [], (0x22 : Word)) ∈ packetForms 0 [] [] ∧ encodable s [] ∧
      ¬ fits (wireBytes (policyInForce s) 0x22 [] []) s) := by
  unfold runningIn encodable fits; decide

theorem test_witness_StartCommandsBegin :
    (Instr.startEncode 5, Mode.encode) ∈
      [(Instr.startTransform 5, Mode.transform), (.startEncode 5, .encode), (.startDecode 5, .decode)] ∧
    ([Phase.idle, .done, .error].all fun p => { State.reset with phase := p }.phase ≠ .running) = true ∧
    (inRun .decode).phase = .running := by decide

/-- A DECODE run over an INFO header with a size of 1 whose payload byte was not loaded (IN_LEN raised, R196). -/
def overUnloadedPayload : State :=
  { runOver .decode [0, 0, 0, 0x22, 0, 0, 0, 1] with inLen := 9 }

/-- A DECODE run over a loaded size word of 1, all else not loaded, with two draws taken. -/
def overUnloadedOpcode : State :=
  { inRun .decode with inMem := Memory.load 4 [0, 0, 0, 1], inLen := 9, draws := 2 }

/-- A packet that ends at IN_LEN: its payload byte not loaded, its opcode word not loaded either, all loaded; a record; a
CTRL word. -/
theorem test_witness_StepRunsDecodedInstruction :
    (let s := overUnloadedPayload
     framersTurn s ∧ (runningIn .transform s ∨ runningIn .decode s) ∧ s.inOffset.toNat + 8 + 1 ≤ s.inLen.toNat ∧
     decode (.stream (packetRead 1 s)) = .ok (.info [] [Config.freeByte 0]) []) ∧
    (let s := overUnloadedOpcode
     framersTurn s ∧ (runningIn .transform s ∨ runningIn .decode s) ∧ s.inOffset.toNat + 8 + 1 ≤ s.inLen.toNat ∧
     decode (.stream (packetRead 1 s)) =
       .ok (decodePacket (be32 (Config.freeByte 2) (Config.freeByte 3) (Config.freeByte 4) (Config.freeByte 5))
         [Config.freeByte 6]) []) ∧
    (let s := runOver .transform [0, 0, 0, 0x22, 0, 0, 0, 1, 9]
     framersTurn s ∧ (runningIn .transform s ∨ runningIn .decode s) ∧ WellFormed (.info [] [9]) = true ∧
     encode (.info [] [9]) = .stream [0, 0, 0, 0x22, 0, 0, 0, 1, 9] ∧ s.inOffset.toNat + 9 ≤ s.inLen.toNat ∧
     inHolds s s.inOffset.toNat [0, 0, 0, 0x22, 0, 0, 0, 1, 9]) ∧
    (let s := { inRun .encode with cmdIn := [⟨0x46, [0], []⟩] }
     framersTurn s ∧ runningIn .encode s ∧ s.cmdIn[s.cmdCount.toNat]? = some ⟨0x46, [0], []⟩) ∧
    (hosting (.regWrite 0 1)).schedule = .host (.regWrite 0 1) :: [] := by
  refine ⟨⟨turn_of_empty _ rfl, .inr ⟨rfl, rfl⟩, by decide, rfl⟩, ⟨turn_of_empty _ rfl, .inr ⟨rfl, rfl⟩, by decide, rfl⟩,
    ⟨turn_of_empty _ rfl, ?_⟩, ⟨turn_of_empty _ rfl, ?_⟩, rfl⟩
  · unfold runningIn inHolds; decide
  · unfold runningIn; decide

/-- R196: a step hands on the count of its draws. -/
theorem test_step_counts_draws :
    [(0 : Nat), 5].map (fun d => seen (fun t => (t.draws, t.inOffset)) (step { overUnloadedPayload with draws := d })) =
      [some (1, 9), some (6, 9)] := by decide

/-- One byte left, and seven. -/
theorem test_witness_TruncatedHeaderError :
    ∀ bytes ∈ [[(1 : Byte)], [0, 0, 0, 0, 0, 0, 0]],
    let s := runOver .decode bytes
    framersTurn s ∧ (runningIn .transform s ∨ runningIn .decode s) ∧ s.inOffset.toNat < s.inLen.toNat ∧
    s.inLen.toNat < s.inOffset.toNat + 8 := by
  intro bytes hb
  refine ⟨turn_of_empty _ rfl, ?_⟩
  revert bytes
  unfold runningIn; decide

/-- V-C10, and one byte too few; and a size word whose last byte was not loaded. -/
theorem test_witness_TruncatedPayloadError :
    (∀ n ∈ [(20 : Byte), 5],
     let s := runOver .transform [0, 0, 0, 3, 0, 0, 0, n, 0, 0, 0, 0]
     framersTurn s ∧ (runningIn .transform s ∨ runningIn .decode s) ∧ s.inOffset.toNat + 8 ≤ s.inLen.toNat ∧
     readInOrder s (sizeAddrs s) = [0, 0, 0, n] ∧
     s.inLen.toNat - s.inOffset.toNat - 8 <
       (0 : Byte).toNat * 2 ^ 24 + (0 : Byte).toNat * 2 ^ 16 + (0 : Byte).toNat * 2 ^ 8 + n.toNat) ∧
    (let s := { runOver .decode [0, 0, 0, 3, 0, 0, 1] with inLen := 8 }
     framersTurn s ∧ (runningIn .transform s ∨ runningIn .decode s) ∧ s.inOffset.toNat + 8 ≤ s.inLen.toNat ∧
     readInOrder s (sizeAddrs s) = [0, 0, 1, Config.freeByte 0] ∧
     s.inLen.toNat - s.inOffset.toNat - 8 <
       (0 : Byte).toNat * 2 ^ 24 + (0 : Byte).toNat * 2 ^ 16 + (1 : Byte).toNat * 2 ^ 8 + (Config.freeByte 0).toNat) := by
  refine ⟨fun n hn => ⟨turn_of_empty _ rfl, ?_⟩, turn_of_empty _ rfl, .inr ⟨rfl, rfl⟩, by decide, rfl, ?_⟩
  · revert n
    unfold runningIn; decide
  · exact Nat.lt_of_lt_of_le (by decide) (Nat.le_add_right _ _)

theorem test_witness_EndOfInputIsDone :
    (let s := inRun .transform
     framersTurn s ∧ runningIn .transform s ∧ s.cfgFlags.getLsbD 1 = false ∧ s.inLen.toNat ≤ s.inOffset.toNat) ∧
    (framersTurn (inRun .decode) ∧ runningIn .decode (inRun .decode) ∧
      (inRun .decode).inLen.toNat ≤ (inRun .decode).inOffset.toNat) ∧
    (framersTurn (inRun .encode) ∧ runningIn .encode (inRun .encode) ∧
      (inRun .encode).cmdCount.toNat = (inRun .encode).cmdIn.length) := by
  refine ⟨⟨turn_of_empty _ rfl, ?_⟩, ⟨turn_of_empty _ rfl, ?_⟩, turn_of_empty _ rfl, ?_⟩ <;> unfold runningIn <;> decide

/-- V-T15: L = 2^32 - 61, and exactly enough room. -/
theorem test_witness_TrailerAppended :
    let s := { inRun .transform with cfgFlags := 3, lastFrame := 0xFFFFFFC3, outCap := ⟨1680, by decide⟩ }
    framersTurn s ∧ runningIn .transform s ∧ s.cfgFlags.getLsbD 1 = true ∧ s.inLen.toNat ≤ s.inOffset.toNat ∧
    s.lastFrame.toNat ≤ 2 ^ 32 - 61 ∧ s.outLen.toNat + 1680 ≤ s.outCap.toNat := by
  refine ⟨turn_of_empty _ rfl, ?_⟩
  unfold runningIn; decide

/-- V-T14: L = 2^32 - 60, with room for exactly its 59 fillers; and L = 2^32 - 1, with OUT full. -/
theorem test_witness_TrailerRangeError :
    (let s := { inRun .transform with cfgFlags := 2, lastFrame := 0xFFFFFFC4, outCap := ⟨1652, by decide⟩ }
     framersTurn s ∧ runningIn .transform s ∧ s.cfgFlags.getLsbD 1 = true ∧ s.inLen.toNat ≤ s.inOffset.toNat ∧
     2 ^ 32 - 61 < s.lastFrame.toNat ∧
     s.outLen.toNat + 28 * (2 ^ 32 - 1 - s.lastFrame.toNat) ≤ s.outCap.toNat) ∧
    (let s := { inRun .transform with
       cfgFlags := 2, lastFrame := 0xFFFFFFFF, out := [7], outLen := 1, outCap := ⟨1, by decide⟩ }
     framersTurn s ∧ runningIn .transform s ∧ s.cfgFlags.getLsbD 1 = true ∧ s.inLen.toNat ≤ s.inOffset.toNat ∧
     2 ^ 32 - 61 < s.lastFrame.toNat ∧
     s.outLen.toNat + 28 * (2 ^ 32 - 1 - s.lastFrame.toNat) ≤ s.outCap.toNat) := by
  refine ⟨⟨turn_of_empty _ rfl, ?_⟩, turn_of_empty _ rfl, ?_⟩ <;> unfold runningIn <;> decide

/-- No filler fits (m = 0), and all but the last (m = 59). -/
theorem test_witness_TrailerOverflowError :
    ∀ c ∈ [(0, (⟨27, by decide⟩ : OutCap)), (59, ⟨1679, by decide⟩)],
    let s := { inRun .transform with cfgFlags := 2, outCap := c.2 }
    framersTurn s ∧ runningIn .transform s ∧ s.cfgFlags.getLsbD 1 = true ∧ s.inLen.toNat ≤ s.inOffset.toNat ∧
    c.1 < 60 ∧ s.lastFrame.toNat + 1 + c.1 ≤ 2 ^ 32 - 1 ∧ s.outLen.toNat + 28 * c.1 ≤ s.outCap.toNat ∧
    s.outCap.toNat < s.outLen.toNat + 28 * (c.1 + 1) := by
  intro c hc
  refine ⟨turn_of_empty _ rfl, ?_⟩
  revert c
  unfold runningIn; decide

theorem test_witness_FramerRestsOutsideRun :
    framersTurn State.reset ∧ State.reset.phase ≠ .running :=
  ⟨turn_of_empty _ rfl, by decide⟩

/-- Every slot. -/
theorem test_witness_RegReadValues (idx : Fin 16) :
    (hosting (.regRead idx)).schedule = .host (.regRead idx) :: [] := rfl

theorem test_witness_ConfigWritesStore (idx : Fin 16) (v : Word) :
    (hosting (.regWrite idx v)).phase ≠ .running ∧
    (hosting (.regWrite idx v)).schedule = .host (.regWrite idx v) :: [] :=
  ⟨by simp [hosting, State.reset], rfl⟩

/-- A configuration slot while RUNNING, and the ends of the read-only range outside it. -/
theorem test_witness_IgnoredWritesKeepState :
    (let s := { inRun .decode with schedule := [.host (.regWrite 3 5)] }
     s.schedule = .host (.regWrite 3 5) :: [] ∧ s.phase = .running) ∧
    (∀ idx ∈ [(1 : Fin 16), 15], (hosting (.regWrite idx 9)).schedule = .host (.regWrite idx 9) :: [] ∧
      idx ∈ ([1, 2, 6, 7, 8, 9, 10, 11, 12, 13, 14, 15] : List (Fin 16))) := by decide

theorem test_witness_ReservedSlotsInert :
    ∀ idx ∈ [(14 : Fin 16), 15], (idx = 14 ∨ idx = 15) ∧
      (hosting (.regRead idx)).schedule = .host (.regRead idx) :: [] ∧
      (hosting (.regWrite idx 7)).schedule = .host (.regWrite idx 7) :: [] := by decide

theorem test_witness_LoadInStores :
    ∀ bytes ∈ [([] : List Byte), [7, 8]], (hosting (.loadIn bytes)).schedule = .host (.loadIn bytes) :: [] ∧
      (hosting (.loadIn bytes)).phase ≠ .running ∧ bytes.length ≤ 2 ^ 32 - 1 := by decide

/-- The last byte of OUT, and the first index past it. -/
theorem test_witness_ListOperations :
    (let s := hosting (.setCmdIn [⟨0x46, [0], []⟩])
     s.schedule = .host (.setCmdIn [⟨0x46, [0], []⟩]) :: [] ∧ s.phase ≠ .running) ∧
    (let s := { hosting (.outRead 1) with out := [5, 6], outLen := 2 }
     s.schedule = .host (.outRead 1) :: [] ∧ 1 < s.outLen.toNat ∧ s.out[1]? = some 6) ∧
    (let s := { hosting (.outRead 2) with out := [5, 6], outLen := 2 }
     s.schedule = .host (.outRead 2) :: [] ∧ s.outLen.toNat ≤ 2) ∧
    (hosting (.cmdOutRead 0)).schedule = .host (.cmdOutRead 0) :: [] := by decide

theorem test_witness_NoLoadWhileRunning :
    (let s := { inRun .decode with schedule := [.host (.loadIn [1])] }
     s.phase = .running ∧ s.schedule = .host (.loadIn [1]) :: []) ∧
    (let s := { inRun .encode with schedule := [.host (.setCmdIn [])] }
     s.phase = .running ∧ s.schedule = .host (.setCmdIn []) :: []) := by decide

theorem test_witness_HardwareResetValues :
    (let s := { inRun .encode with schedule := [.host .hardReset] }; s.schedule = .host .hardReset :: []) ∧
    (hosting .hardReset).schedule = .host .hardReset :: [] := by decide

/-- A run's end, an error, a start and a reset: each a step that answers a next state. -/
theorem test_witness_PhaseMoves :
    [inRun .decode, runOver .decode [1], hosting (.regWrite 0 1), hosting .hardReset].map
      (fun s => seen (fun t => t.phase) (step s)) = [some .done, some .error, some .running, some .idle] := by decide

/-- A kept RESET with D = 3: a FRAMER step that answers a next state and moves FLOOR. -/
theorem test_witness_FramerFrame :
    let s := { runOver .transform [0, 0, 0, 0x46, 0, 0, 0, 4, 0, 0, 0, 9] with cfgDelay := 3 }
    framersTurn s ∧ seen (fun t => (t.floor, t.outLen)) (step s) = some (9, 96) :=
  ⟨turn_of_empty _ rfl, by decide⟩

theorem test_witness_ParametersFixed :
    seen (fun t => t.outCap.toNat) (step { hosting .hardReset with outCap := ⟨39, by decide⟩ }) = some 39 := by decide

/-- A gated INFO. -/
theorem test_witness_ClosedGateHoldsOutput :
    let s := { runOver .transform [0, 0, 0, 0x22, 0, 0, 0, 0] with cfgFlags := 1 }
    framersTurn s ∧ runningIn .transform s ∧ s.cfgFlags.getLsbD 0 = true ∧ s.gateOpen = false ∧
    seen (fun t => (t.gateOpen, t.phase)) (step s) = some (false, .running) := by
  refine ⟨turn_of_empty _ rfl, ?_⟩
  unfold runningIn; decide

/-- Another IN that differs at IN_LEN only, under a step; and a step that faults. -/
theorem test_witness_FetchStaysBelowInLen :
    (let s := runOver .decode [0, 0, 0, 0x22, 0, 0, 0, 0]
     framersTurn s ∧
     (∀ a, a < s.inLen.toNat →
       Memory.read (Memory.load 0 [0, 0, 0, 0x22, 0, 0, 0, 0, 5]) a = Memory.read s.inMem a) ∧
     seen (fun t => t.inOffset) (step s) = some 8) ∧
    (framersTurn (inRun .none) ∧ step (inRun .none) = .fault .runningWithoutMode) :=
  ⟨⟨turn_of_empty _ rfl, by decide, by decide⟩, turn_of_empty _ rfl, rfl⟩

/-- A loaded byte at the first index and one that was not loaded at the last. -/
theorem test_witness_UnloadedBytesAreDrawn :
    (0 < 2 ∧ 1 < 2) ∧ readBytes (Memory.load 0 [7]) 0 2 5 = ([7, Config.freeByte 5], 6) := ⟨by decide, rfl⟩

theorem test_witness_DecodeEncodeAgree :
    ([Instr.input [1] [2], .unknown 0 [] [], .startDecode 7].all WellFormed) = true ∧
    encode (.unknown 0 [] []) = .stream [0, 0, 0, 0, 0, 0, 0, 0] := by decide

theorem test_witness_EncodeDecodeAgree :
    decode (.stream [0, 0, 0, 0x40, 0, 0, 0, 1, 7, 9]) = .ok (.crc [] [7]) [9] := by decide

theorem test_witness_CodecRoundTrip :
    ((⟨0x40, [], [7]⟩ : Command).extra = [] ∨ ExtraPolicy.emit = .emit) ∧
    ((⟨0x40, [], [7]⟩ : Command).extra.length ≤ 3 ∧
      4 * (⟨0x40, [], [7]⟩ : Command).payload.length + (⟨0x40, [], [7]⟩ : Command).extra.length ≤ 2 ^ 32 - 1) ∧
    (decode (.stream [0, 0, 0, 0x40, 0, 0, 0, 1, 7, 9]) = .ok (.crc [] [7]) [9] ∧
      commandOf (.crc [] [7]) = some ⟨0x40, [], [7]⟩) := by decide

/-- V-T21's first packet, with the RESET's first two bytes after it. -/
theorem test_witness_OmitLiteralMisframes :
    (⟨0x77, [0xDEADBEEF], [1, 2]⟩ : Command).extra ≠ [] ∧ (⟨0x77, [0xDEADBEEF], [1, 2]⟩ : Command).extra.length ≤ 3 ∧
    seen id (match encodeCommand .omitLiteral ⟨0x77, [0xDEADBEEF], [1, 2]⟩ with
      | .ok bytes => .next { State.reset with out := bytes }
      | .error _ => .refused .noHostMove) =
      some { State.reset with out := [0, 0, 0, 0x77, 0, 0, 0, 6, 0xDE, 0xAD, 0xBE, 0xEF] } ∧
    ([0, 0] : List Byte).length = (⟨0x77, [0xDEADBEEF], [1, 2]⟩ : Command).extra.length := by decide

/-- No word, and one word. -/
theorem test_witness_InputViewDefaults :
    ∀ p ∈ [([] : List Word), [5]], (⟨0x03, p, []⟩ : Command).opcode = 0x03 := by decide

/-- A good state in the middle of a TRANSFORM run, a RESET with D = 3 still to come. -/
def goodState : State :=
  { runOver .transform [0, 0, 0, 0x46, 0, 0, 0, 4, 0, 0, 0, 9] with cfgDelay := 3 }

theorem goodState_good : Good goodState where
  memWf := by decide
  memBound := by decide
  outLen := by decide
  outCap := by decide
  errCode := by decide
  errInfo := by decide
  modeNone := by decide
  offset := by decide
  progress := by decide
  encodePos := by decide
  encoded := by decide
  floorLast := by decide
  modeRegs := ⟨by decide, by decide, by decide, by decide⟩

theorem test_witness_GoodKept : Good goodState ∧ seen (fun t => t.delay) (step goodState) = some 3 :=
  ⟨goodState_good, by decide⟩

/-- A RESET with D = 0 emitted, and the end of the run at hand (DONE is the next phase), TRAILER = 0. -/
def accountState : State :=
  { inRun .transform with
    inLen := 12, inOffset := 12, cmdCount := 1, lastFrame := 9, outLen := 12,
    out := [0, 0, 0, 0x46, 0, 0, 0, 4, 0, 0, 0, 9] }

/-- The account of no commands, in the middle of a run; the account of one RESET, at its end and in DONE. -/
theorem test_witness_AccountKept :
    (Good goodState ∧ TransformAccount goodState ∧
      seen (fun t => (t.phase, t.mode)) (step goodState) = some (.running, .transform)) ∧
    (Good accountState ∧ TransformAccount accountState ∧
      seen (fun t => (t.phase, t.mode)) (step accountState) = some (.done, .transform)) ∧
    (let s := { accountState with phase := .done }
     Good s ∧ TransformAccount s ∧ seen (fun t => (t.phase, t.mode)) (step s) = some (.done, .transform)) := by
  refine ⟨⟨goodState_good, fun _ => ⟨[], ?_⟩, by decide⟩, ⟨?_, fun _ => ⟨[⟨0x46, [9], []⟩], ?_⟩, by decide⟩,
    ?_, fun _ => ⟨[⟨0x46, [9], []⟩], ?_⟩, by decide⟩
  all_goals constructor <;> first | decide | (constructor <;> decide)

theorem test_witness_GoodStatesStep : Good goodState ∧ dutyKept goodState = true :=
  ⟨goodState_good, by decide⟩

theorem test_witness_DecodingRunEnds :
    goodState.schedule = [] ∧ (runningIn .transform goodState ∨ runningIn .decode goodState) :=
  ⟨rfl, .inl ⟨rfl, rfl⟩⟩

theorem test_witness_EncodingRunEnds :
    let s := { inRun .encode with cmdIn := [⟨0x46, [0], []⟩] }
    Good s ∧ s.schedule = [] ∧ runningIn .encode s :=
  ⟨⟨by decide, by decide, by decide, by decide, by decide, by decide, by decide, by decide, by decide, by decide, by decide,
    by decide, ⟨by decide, by decide, by decide, by decide⟩⟩, rfl, rfl, rfl⟩

/-- RESET(0), then an UNKNOWN packet with extra bytes, under Emit. -/
theorem test_witness_IdentityRun :
    let cs : List Command := [⟨0x46, [0], []⟩, ⟨0x77, [], [1, 2]⟩]
    let s := { runOver .transform (hexBytes [0x46, 4, 0, 0x77, 2] ++ [1, 2]) with extraPolicy := some .emit, outCap := ⟨22, by decide⟩ }
    (∀ c ∈ cs, c.extra.length ≤ 3 ∧ 4 * c.payload.length + c.extra.length ≤ 2 ^ 32 - 1 ∧
      (isFrameBearing c.opcode = true → c.payload ≠ []) ∧ (c.extra = [] ∨ policyInForce s = .emit)) ∧
    s.schedule = [] ∧ runningIn .transform s ∧ s.cfgDelay = 0 ∧ s.cfgFlags = 0 ∧
    s.inOffset = 0 ∧ s.cmdCount = 0 ∧ s.out = [] ∧ s.outLen = 0 ∧ s.delay = 0 ∧ s.floor = 0 ∧ s.gateOpen = false ∧
    s.lastFrame = 0 ∧ s.inLen.toNat = (cs.flatMap packetBytes).length ∧ inHolds s 0 (cs.flatMap packetBytes) ∧
    (cs.flatMap packetBytes).length ≤ s.outCap.toNat := by
  unfold runningIn inHolds; decide

end Sys2Proof.Machine
end

/-! ## The state: what every step keeps (spec/10_state.md)

First what a step of the FRAMER can do, said once; then the induction over the parts of TRANSFORM_STEP, packaged once;
then the two invariants, each as one rule per operation of the state. -/

namespace Sys2Proof.Machine

section Moves

variable {s t : State} {c : Command}

/-! ### One turn -/

theorem step_host {op : HostOp} {rest : List Turn} (h : s.schedule = .host op :: rest) :
    step s = hostStep op (setSchedule rest s) := by
  simp [step, turnStep, h]

/-! ### The FRAMER's turn -/

/-- TRANSFORM_STEP for a record with this opcode word (R85, R120 to R128). -/
def transformOf (op : Word) : Command → Word → State → State :=
  if op = opReset then transformReset
  else if isFrameBearing op then transformFrame
  else transformPlain

@[simp] theorem transformOf_opReset : transformOf opReset = transformReset := if_pos rfl

theorem isFrameBearing_iff (op : Word) :
    isFrameBearing op = true ↔ op = opInput ∨ op = opNoinput ∨ op = opMode ∨ op = opCrc ∨ op = opLoadSavestate ∨
      op = opReset ∨ op = opFlipPlayers := by
  simp [isFrameBearing, frameBearingOpcodes]

/-- The instruction of a record runs the record by its opcode word, which selects the transform it gets. -/
theorem exec_instrOfCommand (c : Command) (s : State) :
    exec (instrOfCommand c) s = runCommand c (transformOf c.opcode) s := by
  obtain ⟨op, payload, extra⟩ := c
  by_cases known : op ∈ knownOpcodes
  · simp only [knownOpcodes, List.mem_cons, List.not_mem_nil, or_false] at known
    rcases known with rfl | rfl | rfl | rfl | rfl | rfl | rfl | rfl <;> rfl
  · simp only [knownOpcodes, List.mem_cons, List.not_mem_nil, or_false, not_or] at known
    obtain ⟨hInput, hNoinput, hInfo, hMode, hCrc, hLoad, hReset, hFlip⟩ := known
    have plain : transformOf op = transformPlain := by
      simp [transformOf, isFrameBearing_iff, *]
    rw [plain]
    simp only [instrOfCommand, *, if_false]
    rfl

/-- What the FRAMER's step can make of a state, one constructor per way it can go (R200, R151, R194, R195, R101). -/
inductive FramerMove (s : State) : State → Prop
  | rest (hphase : s.phase ≠ .running) : FramerMove s s
  | truncated (e : ErrCode) (draws : Nat) (he : e ≠ .none) (hphase : s.phase = .running) (hmode : s.mode ≠ .encode) :
      FramerMove s (raise e s.inOffset (setDraws draws s))
  | endTransform (hphase : s.phase = .running) (hmode : s.mode = .transform) : FramerMove s (transformEnd s)
  | finish (hphase : s.phase = .running) (hmode : s.mode ≠ .transform) : FramerMove s (finishRun s)
  | transform (c : Command) (draws : Nat) (hphase : s.phase = .running) (hmode : s.mode = .transform)
      (hfit : s.inOffset.toNat + (8 + payloadSize c) ≤ s.inLen.toNat) :
      FramerMove s (transformOf c.opcode c s.inOffset (advance c (setDraws draws s)))
  | decode (c : Command) (draws : Nat) (hphase : s.phase = .running) (hmode : s.mode = .decode)
      (hfit : s.inOffset.toNat + (8 + payloadSize c) ≤ s.inLen.toNat) :
      FramerMove s (deliver c (advance c (setDraws draws s)))
  | encode (c : Command) (hphase : s.phase = .running) (hmode : s.mode = .encode)
      (hcount : s.cmdCount.toNat < s.cmdIn.length) : FramerMove s (encodeRecord c s)

/-- A fetching step ends the input, finds it truncated, or runs the record of a packet that lies below IN_LEN. -/
theorem fetchStep_cases {atEnd : State → State} (h : fetchStep atEnd s = .next t) :
    t = atEnd s ∨
    (∃ e draws, e ≠ .none ∧ t = raise e s.inOffset (setDraws draws s)) ∨
    (∃ c draws, s.inOffset.toNat + (8 + payloadSize c) ≤ s.inLen.toNat ∧
      runCommand c (transformOf c.opcode) (setDraws draws s) = .next t) := by
  unfold fetchStep at h
  rcases fetch_cases s with ⟨_, e⟩ | ⟨_, _, e⟩ | ⟨_, d, e⟩ | ⟨op, body, d, hfit, e⟩ <;> rw [e] at h
  · cases h; exact .inl rfl
  · cases h; exact .inr (.inl ⟨.truncHeader, s.draws, by simp, rfl⟩)
  · cases h; exact .inr (.inl ⟨.truncPayload, d, by simp, rfl⟩)
  · refine .inr (.inr ⟨⟨op, payloadWords body, payloadExtra body⟩, d, ?_, ?_⟩)
    · rw [payloadSize_split]; omega
    · rw [← exec_instrOfCommand]; exact h

/-- Every step of the FRAMER that answers a next state is one of the moves. -/
theorem framerMove_of_framerStep (h : framerStep s = .next t) : FramerMove s t := by
  unfold framerStep at h
  cases hphase : s.phase with
  | running =>
    cases hmode : s.mode with
    | transform =>
      simp only [hphase, hmode] at h
      rcases fetchStep_cases h with rfl | ⟨e, d, he, rfl⟩ | ⟨c, d, hfit, hr⟩
      · exact .endTransform hphase hmode
      · exact .truncated e d he hphase (by simp [hmode])
      · simp only [runCommand, setDraws_phase, setDraws_mode, hphase, hmode] at hr
        cases hr
        exact .transform c d hphase hmode hfit
    | decode =>
      simp only [hphase, hmode] at h
      rcases fetchStep_cases h with rfl | ⟨e, d, he, rfl⟩ | ⟨c, d, hfit, hr⟩
      · exact .finish hphase (by simp [hmode])
      · exact .truncated e d he hphase (by simp [hmode])
      · simp only [runCommand, setDraws_phase, setDraws_mode, hphase, hmode] at hr
        cases hr
        exact .decode c d hphase hmode hfit
    | encode =>
      simp only [hphase, hmode, encodeStep] at h
      split at h
      · cases h; exact .finish hphase (by simp [hmode])
      · split at h
        · rename_i c hc
          simp only [exec_instrOfCommand, runCommand, hphase, hmode] at h
          cases h
          exact .encode c hphase hmode (List.getElem?_eq_some_iff.mp hc).1
        · cases h
    | none => simp [hphase, hmode] at h
  | idle => simp only [hphase] at h; cases h; exact .rest (by simp [hphase])
  | done => simp only [hphase] at h; cases h; exact .rest (by simp [hphase])
  | error => simp only [hphase] at h; cases h; exact .rest (by simp [hphase])

/-- A step that answers a next state is a host operation or the FRAMER's step, in the state without the turn (R226). -/
theorem step_next_cases (h : step s = .next t) :
    (∃ op rest, s.schedule = .host op :: rest ∧ hostStep op (setSchedule rest s) = .next t) ∨
    (framersTurn s ∧ framerStep (setSchedule s.schedule.tail s) = .next t) := by
  rcases step_cases s with ⟨op, rest, hs, e⟩ | ⟨hs, e⟩ <;> rw [e] at h
  · exact .inl ⟨op, rest, hs, h⟩
  · exact .inr ⟨hs, h⟩

end Moves

/-! ### The parts of TRANSFORM_STEP, walked once -/

/-- A property that every update TRANSFORM_STEP and TRANSFORM_END are made of keeps, where the model makes it: OUT
grows within OUT_CAP (R107), LAST_FRAME does not fall below FLOOR (R155), FLOOR becomes LAST_FRAME (R161). -/
structure TransformClosed (P : State → Prop) : Prop where
  raise        : ∀ e info s, e ≠ .none → P s → P (raise e info s)
  appendOut    : ∀ bytes s, s.outLen.toNat + bytes.length ≤ s.outCap.toNat → P s → P (appendOut bytes s)
  setLastFrame : ∀ f s, s.floor.toNat ≤ f.toNat → P s → P (setLastFrame f s)
  openGate     : ∀ s, P s → P (openGate s)
  growDelay    : ∀ s, P s → P (growDelay s.lastFrame s)

namespace TransformClosed

variable {P : State → Prop} {s : State}

theorem emit (hP : TransformClosed P) (c : Command) (info : Word) (hs : P s) : P (emit c info s).state := by
  rcases emit_cases c info s with ⟨e, he, _, h⟩ | ⟨_, _, _, h⟩ | ⟨bytes, _, hfit, h⟩ <;> rw [h]
  · exact hP.raise _ _ _ he hs
  · exact hP.raise _ _ _ (by simp) hs
  · exact hP.appendOut _ _ hfit hs

theorem emitFillers (hP : TransformClosed P) (info : Word) (n f : Nat) (hs : P s) :
    P (emitFillers info n f s).state := by
  induction n generalizing f s with
  | zero => exact hs
  | succ n ih =>
    simp only [Machine.emitFillers]
    split
    · exact hP.raise _ _ _ (by simp) hs
    · have hemit := hP.emit (filler (BitVec.ofNat 32 f)) info hs
      split <;> rename_i e <;> rw [e] at hemit
      · exact hemit
      · exact ih (f + 1) hemit

theorem gateAndEmit (hP : TransformClosed P) (c : Command) (o : Word) (hs : P s) : P (gateAndEmit c o s).state := by
  unfold Machine.gateAndEmit
  rcases passGate_cases c s with ⟨_, h⟩ | ⟨_, _, h⟩ | ⟨_, _, h⟩ <;> rw [h]
  · exact hP.emit c o hs
  · exact hP.emit c o (hP.openGate s hs)
  · exact hs

theorem handleReset (hP : TransformClosed P) {f : Word} (o : Word) (hf : s.lastFrame = f) (hs : P s) :
    P (handleReset f o s) := by
  have hfillers := hP.emitFillers o (fillerCount s) f.toNat hs
  unfold Machine.handleReset
  split
  · exact hs
  · rcases emitFillers_cases o (fillerCount s) f.toNat s with h | ⟨k, _, _, h⟩ | ⟨k, _, _, h⟩ <;> rw [h] at hfillers ⊢
    · subst hf; exact hP.growDelay _ hfillers
    · exact hfillers
    · exact hfillers

theorem transformPlain (hP : TransformClosed P) (c : Command) (o : Word) (hs : P s) : P (transformPlain c o s) :=
  hP.gateAndEmit c o hs

theorem transformFrame (hP : TransformClosed P) (c : Command) (o : Word) (hs : P s) : P (transformFrame c o s) := by
  unfold Machine.transformFrame
  rcases adjust_cases c o s with ⟨_, h⟩ | ⟨_, _, _, _, h⟩ | ⟨_, _, _, _, _, h⟩ | ⟨w, ws, f, _, hfloor, _, h⟩ <;> rw [h]
  · exact hP.raise _ _ _ (by simp) hs
  · exact hs
  · exact hP.raise _ _ _ (by simp) hs
  · exact hP.gateAndEmit _ o (hP.setLastFrame f s hfloor hs)

theorem transformReset (hP : TransformClosed P) (c : Command) (o : Word) (hs : P s) : P (transformReset c o s) := by
  unfold Machine.transformReset
  rcases adjust_cases c o s with ⟨_, h⟩ | ⟨_, _, _, _, h⟩ | ⟨_, _, _, _, _, h⟩ | ⟨w, ws, f, _, hfloor, _, h⟩ <;> rw [h]
  · exact hP.raise _ _ _ (by simp) hs
  · exact hs
  · exact hP.raise _ _ _ (by simp) hs
  · have hemit := hP.gateAndEmit { c with payload := f :: ws } o (hP.setLastFrame f s hfloor hs)
    simp only
    rcases gateAndEmit_cases { c with payload := f :: ws } o (Machine.setLastFrame f s) with
      ⟨_, _, e⟩ | ⟨u, hu, ⟨_, _, e⟩ | ⟨bytes, _, _, e⟩⟩ <;> rw [e] at hemit ⊢
    · exact hemit
    · exact hemit
    · refine hP.handleReset o ?_ hemit
      rcases hu with rfl | ⟨rfl, _, _⟩ <;> simp

theorem transformOf (hP : TransformClosed P) (op : Word) (c : Command) (o : Word) (hs : P s) :
    P (transformOf op c o s) := by
  unfold Machine.transformOf
  split
  · exact hP.transformReset c o hs
  · split
    · exact hP.transformFrame c o hs
    · exact hP.transformPlain c o hs

/-- TRANSFORM_END leaves a state with the property, or such a state with its run finished (R165). -/
theorem transformEnd (hP : TransformClosed P) (hfinish : ∀ u, P u → u.phase = s.phase → P (finishRun u)) (hs : P s) :
    P (transformEnd s) := by
  have hfillers := hP.emitFillers s.inLen trailerCount (s.lastFrame.toNat + 1) hs
  unfold Machine.transformEnd
  split
  · rcases emitFillers_cases s.inLen trailerCount (s.lastFrame.toNat + 1) s with h | ⟨k, _, _, h⟩ | ⟨k, _, _, h⟩ <;>
      rw [h] at hfillers ⊢
    · exact hfinish _ hfillers (appendOut_phase _ _)
    · exact hfillers
    · exact hfillers
  · exact hfinish s hs rfl

end TransformClosed

/-! ### PHASE (R25, R200, R232) -/

theorem transformClosed_phase_ne_idle : TransformClosed fun s => s.phase ≠ .idle where
  raise _ _ _ _ _ := by simp
  appendOut _ _ _ h := h
  setLastFrame _ _ _ h := h
  openGate _ h := h
  growDelay _ h := h

/-- The FRAMER never makes PHASE IDLE, and leaves it alone outside RUNNING (R200). -/
theorem FramerMove.phase {s t : State} (h : FramerMove s t) :
    t.phase = s.phase ∨ (s.phase = .running ∧ t.phase ≠ .idle) := by
  cases h with
  | rest hphase => exact .inl rfl
  | truncated e draws he hphase hmode => exact .inr ⟨hphase, by simp⟩
  | endTransform hphase hmode =>
    exact .inr ⟨hphase, transformClosed_phase_ne_idle.transformEnd (fun _ _ _ => by simp) (by simp [hphase])⟩
  | finish hphase hmode => exact .inr ⟨hphase, by simp⟩
  | transform c draws hphase hmode hfit =>
    exact .inr ⟨hphase, transformClosed_phase_ne_idle.transformOf c.opcode c s.inOffset (by simp [hphase])⟩
  | decode c draws hphase hmode hfit => exact .inl rfl
  | encode c hphase hmode hcount =>
    rcases encodeRecord_cases c s with ⟨e, _, h⟩ | ⟨bytes, _, _, h⟩ <;> rw [h]
    · exact .inr ⟨hphase, by simp⟩
    · exact .inl rfl

end Sys2Proof.Machine

namespace Sys2Proof.Machine

/-! ### The counters do not wrap where the model moves them (log entry 14) -/

section Counters

variable {s : State}

theorem appendOut_outLen_toNat {bytes : List Byte} (hfit : s.outLen.toNat + bytes.length ≤ s.outCap.toNat) :
    (appendOut bytes s).outLen.toNat = s.outLen.toNat + bytes.length := by
  have hcap := s.outCap.toNat_lt
  rw [appendOut_outLen, BitVec.toNat_add, BitVec.toNat_ofNat]
  omega

theorem advance_inOffset_toNat {c : Command} (hfit : s.inOffset.toNat + (8 + payloadSize c) ≤ s.inLen.toNat) :
    (advance c s).inOffset.toNat = s.inOffset.toNat + (8 + payloadSize c) := by
  have hlen := s.inLen.isLt
  rw [advance_inOffset, BitVec.toNat_add, BitVec.toNat_ofNat]
  omega

/-- Counting one more raises an eightfold count by at most 8, also at the end of u32. -/
theorem eight_mul_succ_le {n : Word} {bound : Nat} (h : 8 * n.toNat + 8 ≤ bound) : 8 * (n + 1).toNat ≤ bound := by
  have : (n + 1).toNat ≤ n.toNat + 1 := by rw [BitVec.toNat_add]; exact Nat.mod_le _ _
  omega

end Counters

/-! ### Good: one rule per operation of the state -/

section GoodRules

variable {s : State}

theorem Good.mode_ne_none (h : Good s) (hphase : s.phase = .running) : s.mode ≠ .none := by
  rw [Ne, h.modeNone, hphase]; simp

/-! The FRAMER's operations. -/

theorem good_setSchedule (l : List Turn) (h : Good s) : Good (setSchedule l s) :=
  { h with modeRegs := { h.modeRegs with } }

theorem good_setDraws (n : Nat) (h : Good s) : Good (setDraws n s) :=
  { h with modeRegs := { h.modeRegs with } }

theorem good_raise {e : ErrCode} (info : Word) (he : e ≠ .none) (hmode : s.mode ≠ .none) (h : Good s) :
    Good (raise e info s) :=
  { h with
    errCode := by simp [he]
    errInfo := by simp
    modeNone := by simp [hmode]
    offset := by simp
    encodePos := by simp
    modeRegs := { h.modeRegs with } }

theorem good_finishRun (hphase : s.phase = .running) (h : Good s) : Good (finishRun s) :=
  { h with
    errCode := by simpa [hphase] using h.errCode
    errInfo := fun _ => h.errInfo (by simp [hphase])
    modeNone := by simpa using h.mode_ne_none hphase
    offset := by simp
    encodePos := by simp
    modeRegs := { h.modeRegs with } }

theorem good_advance {c : Command} (hmode : s.mode ≠ .encode)
    (hfit : s.inOffset.toNat + (8 + payloadSize c) ≤ s.inLen.toNat) (h : Good s) : Good (advance c s) :=
  have hoffset := advance_inOffset_toNat hfit
  have hprogress := h.progress hmode
  { h with
    offset := fun _ _ => by rw [hoffset]; exact hfit
    progress := fun _ => by rw [hoffset]; exact eight_mul_succ_le (by omega)
    encodePos := fun _ hm => absurd hm hmode
    encoded := fun hm => absurd hm hmode
    modeRegs := { h.modeRegs with encodeOffset := fun hm => absurd hm hmode } }

theorem good_deliver (c : Command) (hmode : s.mode = .decode) (h : Good s) : Good (deliver c s) :=
  { h with modeRegs := { h.modeRegs with recordsOnly := fun hm => absurd hmode hm } }

theorem good_appendOut {bytes : List Byte} (hmode : s.mode ≠ .decode)
    (hfit : s.outLen.toNat + bytes.length ≤ s.outCap.toNat) (h : Good s) : Good (appendOut bytes s) :=
  have hlen := appendOut_outLen_toNat hfit
  { h with
    outLen := by rw [hlen, h.outLen, appendOut_out, List.length_append]
    outCap := by rw [hlen]; exact hfit
    encoded := fun hm => by rw [hlen]; exact (h.encoded hm).trans (Nat.le_add_right _ _)
    modeRegs := { h.modeRegs with decodeOut := fun hm => absurd hm hmode } }

theorem good_countEncoded (hmode : s.mode = .encode) (hpos : s.cmdCount.toNat < s.cmdIn.length)
    (hout : 8 * s.cmdCount.toNat + 8 ≤ s.outLen.toNat) (h : Good s) : Good (countEncoded s) :=
  { h with
    progress := fun hm => absurd hmode hm
    encodePos := fun _ _ => by
      rw [countEncoded_cmdCount, countEncoded_cmdIn, BitVec.toNat_add]
      exact (Nat.mod_le _ _).trans hpos
    encoded := fun _ => eight_mul_succ_le hout
    modeRegs := { h.modeRegs with } }

/-- TRANSFORM_STEP and TRANSFORM_END are made of updates that keep a good state of a TRANSFORM run good. -/
theorem transformClosed_good : TransformClosed fun s => Good s ∧ s.mode = .transform where
  raise e info s he := fun ⟨h, hm⟩ => ⟨good_raise info he (by simp [hm]) h, hm⟩
  appendOut bytes s hfit := fun ⟨h, hm⟩ => ⟨good_appendOut (by simp [hm]) hfit h, hm⟩
  setLastFrame f s hfloor := fun ⟨h, hm⟩ =>
    ⟨{ h with
        floorLast := hfloor
        modeRegs := { h.modeRegs with transformOnly := fun hne => absurd hm hne } }, hm⟩
  openGate s := fun ⟨h, hm⟩ =>
    ⟨{ h with modeRegs := { h.modeRegs with transformOnly := fun hne => absurd hm hne } }, hm⟩
  growDelay s := fun ⟨h, hm⟩ =>
    ⟨{ h with
        floorLast := Nat.le_refl _
        modeRegs := { h.modeRegs with transformOnly := fun hne => absurd hm hne } }, hm⟩

theorem good_encodeRecord (c : Command) (hphase : s.phase = .running) (hmode : s.mode = .encode)
    (hpos : s.cmdCount.toNat < s.cmdIn.length) (h : Good s) : Good (encodeRecord c s) := by
  rcases encodeRecord_cases c s with ⟨e, he, hr⟩ | ⟨bytes, henc, hfit, hr⟩ <;> rw [hr]
  · exact good_raise s.cmdCount he (h.mode_ne_none hphase) h
  · refine good_countEncoded hmode hpos ?_ (good_appendOut (by simp [hmode]) hfit h)
    have hsize := encodeCommand_length henc
    have hencoded := h.encoded hmode
    rw [appendOut_outLen_toNat hfit, appendOut_cmdCount]
    omega

/-- Every move of the FRAMER keeps a good state good. -/
theorem FramerMove.good {t : State} (hmove : FramerMove s t) (h : Good s) : Good t := by
  cases hmove with
  | rest hphase => exact h
  | truncated e draws he hphase hmode =>
    exact good_raise s.inOffset he (h.mode_ne_none hphase) (good_setDraws draws h)
  | endTransform hphase hmode =>
    have hfinish : ∀ u, Good u ∧ u.mode = .transform → u.phase = s.phase →
        Good (finishRun u) ∧ (finishRun u).mode = .transform := fun u hu hp =>
      ⟨good_finishRun (hp.trans hphase) hu.1, hu.2⟩
    exact (transformClosed_good.transformEnd hfinish ⟨h, hmode⟩).1
  | finish hphase hmode => exact good_finishRun hphase h
  | transform c draws hphase hmode hfit =>
    have hadvance : Good (advance c (setDraws draws s)) :=
      good_advance (by simp [hmode]) hfit (good_setDraws draws h)
    exact (transformClosed_good.transformOf c.opcode c s.inOffset ⟨hadvance, hmode⟩).1
  | decode c draws hphase hmode hfit =>
    exact good_deliver c hmode (good_advance (by simp [hmode]) hfit (good_setDraws draws h))
  | encode c hphase hmode hcount => exact good_encodeRecord c hphase hmode hcount h

/-! The host's operations. -/

/-- A start leaves a good state whenever IN is in its form and range: it clears the rest (R192). -/
theorem good_startRun {m : Mode} (hm : m ≠ .none) (hwf : Memory.wf s.inMem) (hbound : ∀ c ∈ s.inMem, c.1 < 2 ^ 32 - 1) :
    Good (startRun m s) where
  memWf := hwf
  memBound := hbound
  outLen := rfl
  outCap := Nat.zero_le _
  errCode := by simp
  errInfo _ := rfl
  modeNone := by simp [hm]
  offset _ _ := Nat.zero_le _
  progress _ := Nat.le_refl _
  encodePos _ _ := Nat.zero_le _
  encoded _ := Nat.le_refl _
  floorLast := Nat.le_refl _
  modeRegs := ⟨fun _ => ⟨rfl, rfl, rfl, rfl⟩, fun _ => rfl, fun _ => rfl, fun _ => rfl⟩

/-- Hardware reset leaves a good state whenever IN is in its form and range (R250). -/
theorem good_hardReset (hwf : Memory.wf s.inMem) (hbound : ∀ c ∈ s.inMem, c.1 < 2 ^ 32 - 1) : Good (hardReset s) where
  memWf := hwf
  memBound := hbound
  outLen := rfl
  outCap := Nat.zero_le _
  errCode := by simp
  errInfo _ := rfl
  modeNone := by simp
  offset := by simp
  progress _ := Nat.le_refl _
  encodePos := by simp
  encoded _ := Nat.le_refl _
  floorLast := Nat.le_refl _
  modeRegs := ⟨fun _ => ⟨rfl, rfl, rfl, rfl⟩, fun _ => rfl, fun _ => rfl, fun _ => rfl⟩

theorem good_storeInLen (v : Word) (hphase : s.phase ≠ .running) (h : Good s) : Good (storeInLen v s) :=
  { h with
    offset := fun hp => absurd hp hphase
    modeRegs := { h.modeRegs with } }

theorem good_storeIn {bytes : List Byte} (hlen : bytes.length ≤ 2 ^ 32 - 1) (hphase : s.phase ≠ .running) (h : Good s) :
    Good (storeIn bytes s) :=
  { h with
    memWf := Memory.load_wf 0 bytes
    memBound := fun c hc => by
      obtain ⟨_, hlt⟩ := Memory.mem_load hc
      omega
    offset := fun hp => absurd hp hphase
    modeRegs := { h.modeRegs with } }

theorem good_storeCmdIn (l : List Command) (hphase : s.phase ≠ .running) (h : Good s) : Good (storeCmdIn l s) :=
  { h with
    encodePos := fun hp => absurd hp hphase
    modeRegs := { h.modeRegs with } }

/-- Every host operation keeps a good state good. -/
theorem good_hostStep {op : HostOp} {t : State} (hstep : hostStep op s = .next t) (h : Good s) : Good t := by
  rcases hostStep_cases hstep with rfl | ⟨r, rfl⟩ | ⟨_, _, m, hm, _, _, rfl⟩ |
    ⟨hphase, ⟨v, rfl⟩ | ⟨v, rfl⟩ | ⟨v, rfl⟩ | ⟨bytes, hlen, rfl⟩ | ⟨l, rfl⟩⟩ | ⟨_, rfl⟩
  · exact h
  · exact { h with modeRegs := { h.modeRegs with } }
  · exact good_startRun hm h.memWf h.memBound
  · exact { h with modeRegs := { h.modeRegs with } }
  · exact { h with modeRegs := { h.modeRegs with } }
  · exact good_storeInLen v hphase h
  · exact good_storeIn hlen hphase h
  · exact good_storeCmdIn l hphase h
  · exact good_hardReset h.memWf h.memBound

end GoodRules

/-- Settles O51: each host operation and each move of the FRAMER keeps Good. -/
theorem goodKept : Obligations.GoodKept := by
  intro s t h hstep
  rcases step_next_cases hstep with ⟨op, rest, _, hop⟩ | ⟨_, hframer⟩
  · exact good_hostStep hop (good_setSchedule rest h)
  · exact (framerMove_of_framerStep hframer).good (good_setSchedule _ h)

/-- Settles O50: the reset state is hardware reset's of itself, and its IN is empty. -/
theorem goodAtReset : Obligations.GoodAtReset :=
  good_hardReset (s := State.reset) List.Pairwise.nil (by simp [State.reset])

end Sys2Proof.Machine

namespace Sys2Proof.Machine

/-! ### The account of a TRANSFORM run: one rule per operation of the state -/

section AccountRules

variable {s t : State} {cs : List Command} {c : Command}

theorem resetCount_singleton (c : Command) : resetCount [c] = if c.opcode = opReset then 1 else 0 := by
  by_cases h : c.opcode = opReset <;> simp [resetCount, h]

theorem accounts_raise (e : ErrCode) (info : Word) (h : Accounts cs s) : Accounts cs (raise e info s) :=
  { h with
    opened := by simp
    delay := by simp
    configured := by simp }

/-- An error entered with the gate just opened keeps the account: it asks for no RESET after an error (R230). -/
theorem accounts_raise_openGate (e : ErrCode) (info : Word) (h : Accounts cs s) :
    Accounts cs (raise e info (openGate s)) :=
  { h with
    opened := by simp
    delay := by simp
    configured := by simp }

theorem accounts_finishRun (hphase : s.phase = .running) (h : Accounts cs s) : Accounts cs (finishRun s) :=
  { h with
    opened := fun _ => h.opened (by simp [hphase])
    delay := by simp
    configured := by simp }

theorem accounts_advance (hfit : s.inOffset.toNat + (8 + payloadSize c) ≤ s.inLen.toNat) (h : Accounts cs s) :
    Accounts cs (advance c s) :=
  { h with
    offset := by
      rw [advance_inOffset_toNat hfit]
      exact h.offset.trans (Nat.le_add_right _ _) }

/-- Emitting commands none of which is a RESET adds them to the account (R68). -/
theorem accounts_append {ds : List Command} {bytes : List Byte} (henc : encodeAll (policyInForce s) ds = some bytes)
    (hcount : resetCount ds = 0) (h : Accounts cs s) : Accounts (cs ++ ds) (appendOut bytes s) :=
  have hsame : resetCount (cs ++ ds) = resetCount cs := by rw [resetCount_append, hcount, Nat.add_zero]
  { out := encodeAll_append h.out henc
    offset := by rw [hsame]; exact h.offset
    delayed := by rw [hsame]; exact h.delayed
    opened := by rw [hsame]; exact h.opened
    delay := by rw [hsame]; exact h.delay
    configured := h.configured }

theorem accounts_append_fillers (f n : Nat) (h : Accounts cs s) :
    Accounts (cs ++ fillers f n) (appendOut (fillerBytes f n) s) :=
  accounts_append (encodeAll_fillers _ f n) (resetCount_fillers f n) h

/-! Steps 2 and 3 for a command that is no RESET: it cannot open the gate. -/

theorem accounts_gateAndEmit (hc : c.opcode ≠ opReset) (o : Word) (h : Accounts cs s) :
    ∃ ds, Accounts ds (gateAndEmit c o s).state := by
  rcases gateAndEmit_cases c o s with ⟨_, _, e⟩ | ⟨u, hu, hr⟩
  · rw [e]; exact ⟨cs, h⟩
  · obtain rfl : u = s := hu.resolve_right fun ⟨_, _, hop⟩ => hc hop
    rcases hr with ⟨err, _, e⟩ | ⟨bytes, henc, _, e⟩ <;> rw [e]
    · exact ⟨cs, accounts_raise err o h⟩
    · exact ⟨cs ++ [c], accounts_append (encodeAll_singleton henc) (by simp [resetCount_singleton, hc]) h⟩

theorem accounts_transformFrame (hc : c.opcode ≠ opReset) (o : Word) (h : Accounts cs s) :
    ∃ ds, Accounts ds (transformFrame c o s) := by
  unfold transformFrame
  rcases adjust_cases c o s with ⟨_, e⟩ | ⟨_, _, _, _, e⟩ | ⟨_, _, _, _, _, e⟩ | ⟨w, ws, f, _, _, _, e⟩ <;> rw [e]
  · exact ⟨cs, accounts_raise .noFrameWord o h⟩
  · exact ⟨cs, h⟩
  · exact ⟨cs, accounts_raise .frameRange o h⟩
  · have hset : Accounts cs (setLastFrame f s) := { h with }
    exact accounts_gateAndEmit (c := { c with payload := f :: ws }) hc o hset

/-! RESET: between its emission and step 4 the account lacks the RESET's D. -/

/-- The account of commands of which the last RESET has been emitted and its D has not been added to DELAY yet: DELAY is
that of the `n` RESETs before it. -/
structure AwaitsDelay (n : Nat) (cs : List Command) (s : State) : Prop where
  out        : encodeAll (policyInForce s) cs = some s.out
  count      : resetCount cs = n + 1
  offset     : 12 * resetCount cs ≤ s.inOffset.toNat
  delay      : s.phase = .running → s.delay.toInt = n * delayPerReset s
  configured : s.phase = .running → s.gateOpen = true → gateConfigured s = true

/-- A RESET emitted, with the gate possibly opened by it, awaits step 4. -/
theorem awaitsDelay_append {u : State} {bytes : List Byte} (hc : c.opcode = opReset)
    (hu : u = s ∨ (u = openGate s ∧ gateConfigured s = true))
    (henc : encodeCommand (policyInForce s) c = .ok bytes) (hoffset : 12 * (resetCount cs + 1) ≤ s.inOffset.toNat)
    (h : Accounts cs s) : AwaitsDelay (resetCount cs) (cs ++ [c]) (appendOut bytes u) := by
  have hcount : resetCount (cs ++ [c]) = resetCount cs + 1 := by simp [resetCount_singleton, hc]
  have hout := encodeAll_append h.out (encodeAll_singleton henc)
  rcases hu with rfl | ⟨rfl, hgate⟩
  · exact ⟨hout, hcount, by rw [hcount]; exact hoffset, h.delay, h.configured⟩
  · exact ⟨hout, hcount, by rw [hcount]; exact hoffset, h.delay, fun _ _ => hgate⟩

theorem awaitsDelay_append_fillers {n : Nat} (f k : Nat) (h : AwaitsDelay n cs s) :
    AwaitsDelay n (cs ++ fillers f k) (appendOut (fillerBytes f k) s) :=
  have hsame : resetCount (cs ++ fillers f k) = resetCount cs := by simp
  { out := encodeAll_append h.out (encodeAll_fillers _ f k)
    count := hsame.trans h.count
    offset := by rw [hsame]; exact h.offset
    delay := h.delay
    configured := h.configured }

/-- With the count of RESETs bound by IN_OFFSET, adding D once more does not leave s64 (R31; log entry 13). -/
theorem growDelay_delay_toInt {n : Nat} (f : Word) (hn : n < 2 ^ 31) (hdelay : s.delay.toInt = n * delayPerReset s) :
    (growDelay f s).delay.toInt = (n + 1 : Nat) * delayPerReset s := by
  have hlow : -2 ^ 31 ≤ delayPerReset s := BitVec.le_toInt s.cfgDelay
  have hhigh : delayPerReset s < 2 ^ 31 := BitVec.toInt_lt
  have hsum : ((n + 1 : Nat) : Int) * delayPerReset s = s.delay.toInt + delayPerReset s := by
    rw [hdelay]; push_cast; ring
  have hmin : -2 ^ 62 ≤ s.delay.toInt := by rw [hdelay]; nlinarith
  have hmax : s.delay.toInt ≤ 2 ^ 62 := by rw [hdelay]; nlinarith
  have hsext : (s.cfgDelay.signExtend 64).toInt = delayPerReset s := BitVec.toInt_signExtend_of_le (by omega)
  rw [growDelay_delay, BitVec.toInt_add, hsext, hsum]
  exact Int.bmod_eq_of_le (by omega) (by omega)

/-- Step 4 adds the awaited D, or enters an error, after which the account asks for no exact DELAY (R161). -/
theorem accounts_handleReset {n : Nat} (f o : Word) (h : AwaitsDelay n cs s) :
    ∃ ds, Accounts ds (handleReset f o s) := by
  have hpos : 0 < resetCount cs := by rw [h.count]; exact Nat.succ_pos n
  rcases handleReset_cases f o s with ⟨hzero, e⟩ | ⟨_, e⟩ | ⟨_, k, err, _, _, e⟩ <;> rw [e]
  · exact ⟨cs, h.out, h.offset, fun _ => hpos, fun _ _ => hpos,
      fun hp => by rw [h.delay hp, hzero, mul_zero, mul_zero], h.configured⟩
  · have hf := awaitsDelay_append_fillers f.toNat (fillerCount s) h
    have hcount := hf.count
    have hn : n < 2 ^ 31 := by
      have hoffset := hf.offset
      have hlt := s.inOffset.isLt
      rw [hcount, appendOut_inOffset] at hoffset
      omega
    exact ⟨_, hf.out, hf.offset, fun _ => by omega, fun _ _ => by omega,
      fun hp => by rw [hcount]; exact growDelay_delay_toInt f hn (hf.delay hp), hf.configured⟩
  · have hf := awaitsDelay_append_fillers f.toNat k h
    have hcount := hf.count
    exact ⟨_, hf.out, hf.offset, fun _ => by omega, fun _ _ => by omega, by simp, by simp⟩

theorem accounts_transformReset (hc : c.opcode = opReset) (o : Word)
    (hoffset : 12 * resetCount cs + (8 + payloadSize c) ≤ s.inOffset.toNat) (h : Accounts cs s) :
    ∃ ds, Accounts ds (transformReset c o s) := by
  unfold transformReset
  rcases adjust_cases c o s with ⟨_, e⟩ | ⟨_, _, _, _, e⟩ | ⟨_, _, _, _, _, e⟩ | ⟨w, ws, f, hp, _, _, e⟩ <;> rw [e]
  · exact ⟨cs, accounts_raise .noFrameWord o h⟩
  · exact ⟨cs, h⟩
  · exact ⟨cs, accounts_raise .frameRange o h⟩
  · have hset : Accounts cs (setLastFrame f s) := { h with }
    have hroom : 12 * (resetCount cs + 1) ≤ (setLastFrame f s).inOffset.toNat := by
      rw [payloadSize, hp, List.length_cons] at hoffset
      rw [setLastFrame_inOffset]
      omega
    simp only
    rcases gateAndEmit_cases { c with payload := f :: ws } o (setLastFrame f s) with
      ⟨_, _, e⟩ | ⟨u, hu, ⟨err, _, e⟩ | ⟨bytes, henc, _, e⟩⟩ <;> rw [e]
    · exact ⟨cs, hset⟩
    · rcases hu with rfl | ⟨rfl, _, _⟩
      · exact ⟨cs, accounts_raise err o hset⟩
      · exact ⟨cs, accounts_raise_openGate err o hset⟩
    · have hgate := hu.imp_right fun ⟨hopen, hconf, _⟩ => And.intro hopen hconf
      exact accounts_handleReset f o (awaitsDelay_append (c := { c with payload := f :: ws }) hc hgate henc hroom hset)

/-- TRANSFORM_STEP for a record whose packet IN_OFFSET has passed keeps the account. -/
theorem accounts_transformOf (o : Word) (hoffset : 12 * resetCount cs + (8 + payloadSize c) ≤ s.inOffset.toNat)
    (h : Accounts cs s) : ∃ ds, Accounts ds (transformOf c.opcode c o s) := by
  by_cases hc : c.opcode = opReset
  · rw [hc, transformOf_opReset]
    exact accounts_transformReset hc o hoffset h
  · rw [transformOf, if_neg hc]
    split
    · exact accounts_transformFrame hc o h
    · exact accounts_gateAndEmit hc o h

theorem accounts_transformEnd (hphase : s.phase = .running) (h : Accounts cs s) :
    ∃ ds, Accounts ds (transformEnd s) := by
  rcases transformEnd_cases s with ⟨_, e⟩ | ⟨_, e⟩ | ⟨_, k, err, _, _, e⟩ <;> rw [e]
  · exact ⟨cs, accounts_finishRun hphase h⟩
  · exact ⟨_, accounts_finishRun (by simp [hphase]) (accounts_append_fillers _ _ h)⟩
  · exact ⟨_, accounts_raise err s.inLen (accounts_append_fillers _ k h)⟩

/-! ### Every step -/

/-- Every move of the FRAMER in a TRANSFORM run keeps the account. -/
theorem FramerMove.accounts (hmove : FramerMove s t) (hmode : s.mode = .transform) (h : Accounts cs s) :
    ∃ ds, Accounts ds t := by
  have hdraws : ∀ draws, Accounts cs (setDraws draws s) := fun _ => { h with }
  cases hmove with
  | rest hphase => exact ⟨cs, h⟩
  | truncated e draws he hphase _ => exact ⟨cs, accounts_raise e s.inOffset (hdraws draws)⟩
  | endTransform hphase _ => exact accounts_transformEnd hphase h
  | finish hphase hne => exact absurd hmode hne
  | transform c draws hphase _ hfit =>
    refine accounts_transformOf s.inOffset ?_ (accounts_advance (s := setDraws draws s) hfit (hdraws draws))
    rw [advance_inOffset_toNat (s := setDraws draws s) hfit]
    exact Nat.add_le_add_right h.offset _
  | decode c draws hphase hdecode hfit => rw [hmode] at hdecode; cases hdecode
  | encode c hphase hencode hcount => rw [hmode] at hencode; cases hencode

/-- A start leaves no commands to account for (R192). -/
theorem accounts_startRun (m : Mode) (s : State) : Accounts [] (startRun m s) where
  out := rfl
  offset := Nat.zero_le _
  delayed := by simp
  opened := by simp
  delay := by simp [resetCount]
  configured := by simp

/-- A state of the same run, with every account of `s`, keeps the account. -/
theorem TransformAccount.imp (h : TransformAccount s) (hmode : t.mode = s.mode)
    (hacc : ∀ cs, Accounts cs s → Accounts cs t) : TransformAccount t :=
  fun hm => (h (hmode ▸ hm)).imp hacc

theorem transformAccount_setSchedule (l : List Turn) (h : TransformAccount s) : TransformAccount (setSchedule l s) :=
  h.imp rfl fun _ hcs => { hcs with }

/-- Every host operation keeps the account: the configuration, which it reads while RUNNING, is written only outside
(R37). -/
theorem transformAccount_hostStep {op : HostOp} (hstep : hostStep op s = .next t) (h : TransformAccount s) :
    TransformAccount t := by
  rcases hostStep_cases hstep with rfl | ⟨r, rfl⟩ | ⟨_, _, m, _, _, _, rfl⟩ |
    ⟨hphase, ⟨v, rfl⟩ | ⟨v, rfl⟩ | ⟨v, rfl⟩ | ⟨bytes, _, rfl⟩ | ⟨l, rfl⟩⟩ | ⟨_, rfl⟩
  · exact h
  · exact h.imp rfl fun _ hcs => { hcs with }
  · exact fun _ => ⟨[], accounts_startRun m s⟩
  · exact h.imp rfl fun _ hcs => { hcs with delay := fun hp => absurd hp hphase }
  · exact h.imp rfl fun _ hcs => { hcs with configured := fun hp => absurd hp hphase }
  · exact h.imp rfl fun _ hcs => { hcs with }
  · exact h.imp rfl fun _ hcs => { hcs with }
  · exact h.imp rfl fun _ hcs => { hcs with }
  · intro hm; simp at hm

/-- Every step of the FRAMER keeps the account; MODE stays, so only a TRANSFORM run's step has one to keep. -/
theorem transformAccount_framerStep (hstep : framerStep s = .next t) (h : TransformAccount s) : TransformAccount t := by
  intro hm
  have hmode : s.mode = .transform := (KeepsInputs.framerStep hstep).mode ▸ hm
  obtain ⟨cs, hcs⟩ := h hmode
  exact (framerMove_of_framerStep hstep).accounts hmode hcs

end AccountRules

/-- Settles O53: each host operation and each FRAMER step keeps the account. -/
theorem accountKept : Obligations.AccountKept := by
  intro s t _ h hstep
  rcases step_next_cases hstep with ⟨op, rest, _, hop⟩ | ⟨_, hframer⟩
  · exact transformAccount_hostStep hop (transformAccount_setSchedule rest h)
  · exact transformAccount_framerStep hframer (transformAccount_setSchedule _ h)

/-- Settles O52: MODE is NONE at reset, so there is no run to account for. -/
theorem accountAtReset : Obligations.AccountAtReset := by
  intro hm
  simp [State.reset] at hm

end Sys2Proof.Machine

namespace Sys2Proof.Machine

/-! ### PHASE and the register slots (R25, R36, R37) -/

/-- What a host operation can do to PHASE (R25, R192, R250). -/
theorem hostStep_phase {op : HostOp} {s t : State} (h : hostStep op s = .next t) :
    t.phase = s.phase ∨
    (∃ v, op = .regWrite 0 v ∧ v.toNat % 4 ≠ 0 ∧ s.phase ≠ .running ∧ t.phase = .running) ∨
    (op = .hardReset ∧ t.phase = .idle) := by
  rcases hostStep_cases h with rfl | ⟨r, rfl⟩ | ⟨v, hop, m, _, hv, hphase, rfl⟩ |
    ⟨_, ⟨v, rfl⟩ | ⟨v, rfl⟩ | ⟨v, rfl⟩ | ⟨bytes, _, rfl⟩ | ⟨l, rfl⟩⟩ | ⟨hop, rfl⟩
  case inr.inr.inl => exact .inr (.inl ⟨v, hop, hv, hphase, rfl⟩)
  case inr.inr.inr.inr => exact .inr (.inr ⟨hop, rfl⟩)
  all_goals exact .inl rfl

/-- Settles O36: by who has the turn, then by the host's operations or the FRAMER's moves. -/
theorem phaseMoves : Obligations.PhaseMoves := by
  intro s t hstep
  rcases step_next_cases hstep with ⟨op, rest, hs, hop⟩ | ⟨hturn, hframer⟩
  · rcases hostStep_phase hop with hp | ⟨v, rfl, hv, hphase, hp⟩ | ⟨rfl, hp⟩
    · exact .inl hp
    · exact .inr (.inr (.inl ⟨v, rest, hs, hv, hphase, hp⟩))
    · exact .inr (.inr (.inr ⟨rest, hs, hp⟩))
  · rcases (framerMove_of_framerStep hframer).phase with hp | ⟨hrunning, hidle⟩
    · exact .inl hp
    · have hrun : s.phase = .running := hrunning
      cases hp : t.phase with
      | idle => exact absurd hp hidle
      | running => exact .inl hrun.symm
      | done => exact .inr (.inl ⟨hturn, hrun, .inl rfl⟩)
      | error => exact .inr (.inl ⟨hturn, hrun, .inr rfl⟩)

theorem storeUnlessRunning_of_ne {s : State} (store : State → State) (h : s.phase ≠ .running) :
    storeUnlessRunning store s = store s :=
  (storeUnlessRunning_cases store s).elim (fun ⟨hp, _⟩ => absurd hp h) And.right

theorem storeUnlessRunning_of_running {s : State} (store : State → State) (h : s.phase = .running) :
    storeUnlessRunning store s = s :=
  (storeUnlessRunning_cases store s).elim And.right fun ⟨hp, _⟩ => absurd h hp

/-- While RUNNING no write has an effect, CTRL's among them (R37, R191). -/
theorem regWrite_running {s : State} (idx : Fin 16) (v : Word) (h : s.phase = .running) :
    regWrite idx v s = .next s := by
  unfold regWrite
  split
  case h_1 => exact (exec_decodeCtrl_cases v s).resolve_right fun ⟨_, _, _, hp, _⟩ => hp h
  case h_2 => rw [storeUnlessRunning_of_running _ h]
  case h_3 => rw [storeUnlessRunning_of_running _ h]
  case h_4 => rw [storeUnlessRunning_of_running _ h]
  all_goals rfl

/-- A write to a slot that is read-only or reserved has no effect (R36, R37). -/
theorem regWrite_readOnly {idx : Fin 16} (h : idx ∈ ([1, 2, 6, 7, 8, 9, 10, 11, 12, 13, 14, 15] : List (Fin 16)))
    (v : Word) (s : State) : regWrite idx v s = .next s := by
  fin_cases h <;> rfl

/-- Settles O28: outside RUNNING the write is the store, and `v[1:0]` is `v` cut to 2 bits. -/
theorem configWritesStore : Obligations.ConfigWritesStore := by
  intro v rest s hphase
  have store : ∀ f, storeUnlessRunning f (setSchedule rest s) = f (setSchedule rest s) := fun f =>
    storeUnlessRunning_of_ne f hphase
  refine ⟨fun hs => ?_, fun hs => ?_, fun hs => ?_⟩ <;> rw [step_host hs]
  · exact congrArg _ (store (storeCfgDelay v))
  · exact congrArg _ (store (storeCfgFlags v))
  · exact congrArg _ (store (storeInLen v))

/-- Settles O29: either premise makes the write the identity. -/
theorem ignoredWritesKeepState : Obligations.IgnoredWritesKeepState := by
  intro idx v rest s hs h
  rw [step_host hs]
  rcases h with hphase | hslot
  · exact regWrite_running idx v hphase
  · exact regWrite_readOnly hslot v _

/-- Settles O30: the read hands back the constant 0, the write is one to a slot that is not writable. -/
theorem reservedSlotsInert : Obligations.ReservedSlotsInert := by
  intro idx v rest s hidx
  refine ⟨fun hs => ?_, fun hs => ?_⟩ <;> rw [step_host hs]
  · rcases hidx with rfl | rfl <;> rfl
  · exact regWrite_readOnly (by rcases hidx with rfl | rfl <;> decide) v _

/-- Settles O35: each field is read off State.reset. -/
theorem resetStateValues : Obligations.ResetStateValues := by
  unfold Obligations.ResetStateValues
  simp only [State.reset, and_self]

end Sys2Proof.Machine

namespace Sys2Proof.Machine

/-! ### FLOOR (R155, R161): only step 4 of a RESET writes it, with a frame that ADJUST let past the floor -/

section FloorRules

variable {s t : State}

theorem gateAndEmit_floor (c : Command) (o : Word) (s : State) : (gateAndEmit c o s).state.floor = s.floor := by
  rcases gateAndEmit_cases c o s with ⟨_, _, h⟩ | ⟨u, hu, ⟨_, _, h⟩ | ⟨_, _, _, h⟩⟩ <;> rw [h]
  · rfl
  all_goals rcases hu with rfl | ⟨rfl, _, _⟩ <;> rfl

theorem transformFrame_floor (c : Command) (o : Word) (s : State) : (transformFrame c o s).floor = s.floor := by
  unfold transformFrame
  rcases adjust_cases c o s with ⟨_, h⟩ | ⟨_, _, _, _, h⟩ | ⟨_, _, _, _, _, h⟩ | ⟨w, ws, f, _, _, _, h⟩
  · simp [h]
  · simp [h]
  · simp [h]
  · simpa only [h, setLastFrame_floor] using gateAndEmit_floor { c with payload := f :: ws } o (setLastFrame f s)

theorem floor_le_handleReset {f : Word} (o : Word) (hf : s.floor.toNat ≤ f.toNat) :
    s.floor.toNat ≤ (handleReset f o s).floor.toNat := by
  rcases handleReset_cases f o s with ⟨_, h⟩ | ⟨_, h⟩ | ⟨_, _, _, _, _, h⟩ <;> rw [h]
  · exact hf
  · exact Nat.le_refl _

theorem floor_le_transformReset (c : Command) (o : Word) (s : State) :
    s.floor.toNat ≤ (transformReset c o s).floor.toNat := by
  unfold transformReset
  rcases adjust_cases c o s with ⟨_, h⟩ | ⟨_, _, _, _, h⟩ | ⟨_, _, _, _, _, h⟩ | ⟨w, ws, f, _, hfloor, _, h⟩ <;> simp only [h]
  · exact Nat.le_refl _
  · exact Nat.le_refl _
  · exact Nat.le_refl _
  · have hkept := gateAndEmit_floor { c with payload := f :: ws } o (setLastFrame f s)
    cases e : gateAndEmit { c with payload := f :: ws } o (setLastFrame f s) with
    | stop u =>
      have hu : u.floor = s.floor := by rwa [e] at hkept
      simp only [hu, Nat.le_refl]
    | go _ u =>
      have hu : u.floor = s.floor := by rwa [e] at hkept
      have hstep4 : u.floor.toNat ≤ (handleReset f o u).floor.toNat := floor_le_handleReset o (by rwa [hu])
      simpa only [hu] using hstep4

theorem floor_le_transformOf (op : Word) (c : Command) (o : Word) (s : State) :
    s.floor.toNat ≤ (transformOf op c o s).floor.toNat := by
  unfold transformOf
  split
  · exact floor_le_transformReset c o s
  · split
    · exact (congrArg BitVec.toNat (transformFrame_floor c o s)).ge
    · exact (congrArg BitVec.toNat (gateAndEmit_floor c o s)).ge

theorem transformEnd_floor (s : State) : (transformEnd s).floor = s.floor := by
  rcases transformEnd_cases s with ⟨_, h⟩ | ⟨_, h⟩ | ⟨_, _, _, _, _, h⟩ <;> simp [h]

theorem encodeRecord_floor (c : Command) (s : State) : (encodeRecord c s).floor = s.floor := by
  rcases encodeRecord_cases c s with ⟨_, _, h⟩ | ⟨_, _, _, h⟩ <;> simp [h]

/-- No move of the FRAMER lowers FLOOR, whatever LAST_FRAME was before it. -/
theorem FramerMove.floor_le (h : FramerMove s t) : s.floor.toNat ≤ t.floor.toNat := by
  cases h with
  | rest hphase => exact Nat.le_refl _
  | truncated e draws he hphase hmode => exact Nat.le_refl _
  | endTransform hphase hmode => rw [transformEnd_floor]
  | finish hphase hmode => exact Nat.le_refl _
  | transform c draws hphase hmode hfit =>
    exact floor_le_transformOf c.opcode c s.inOffset (advance c (setDraws draws s))
  | decode c draws hphase hmode hfit => exact Nat.le_refl _
  | encode c hphase hmode hcount => rw [encodeRecord_floor]

end FloorRules

/-- Settles O37: the frame is KeepsInputs, read in the state without the turn, and FLOOR is the moves' own rule. -/
theorem framerFrame : Obligations.FramerFrame := by
  intro s t hturn hstep
  rcases step_next_cases hstep with ⟨op, rest, hhost, _⟩ | ⟨_, hframer⟩
  · exact absurd hhost (hturn op rest)
  · have keeps := KeepsInputs.framerStep hframer
    have hfloor := (framerMove_of_framerStep hframer).floor_le
    exact ⟨keeps.cfgDelay, keeps.cfgFlags, keeps.inLen, keeps.inMem, keeps.cmdIn, keeps.outCap, keeps.extraPolicy,
      keeps.mode, keeps.replies, keeps.schedule, keeps.out, keeps.cmdOut, keeps.gateOpen, hfloor⟩

end Sys2Proof.Machine

/-! ## The encoding (spec/30_encoding.md)

First the rules of the encoder, the bounds and the decoder, said of the command record that an instruction stands for;
then the CTRL word, FILLER, the INPUT view and the buttons. -/

namespace Sys2Proof

section PacketRules

variable {bytes rest : List Byte} {i : Instr}

theorem mem_knownOpcodes_iff (op : Word) :
    op ∈ knownOpcodes ↔ op = opInput ∨ op = opNoinput ∨ op = opInfo ∨ op = opMode ∨ op = opCrc ∨ op = opLoadSavestate ∨
      op = opReset ∨ op = opFlipPlayers := by
  simp only [knownOpcodes, List.mem_cons, List.not_mem_nil, or_false]

theorem instrOfCommand_of_unknown {op : Word} (h : op ∉ knownOpcodes) (payload : List Word) (extra : List Byte) :
    instrOfCommand ⟨op, payload, extra⟩ = .unknown op payload extra := by
  simp only [mem_knownOpcodes_iff, not_or] at h
  simp only [instrOfCommand, h, if_false]

theorem encode_instrOfCommand (c : Command) : encode (instrOfCommand c) = .stream (packetBytes c) := by
  obtain ⟨op, payload, extra⟩ := c
  by_cases known : op ∈ knownOpcodes
  · rcases (mem_knownOpcodes_iff op).mp known with rfl | rfl | rfl | rfl | rfl | rfl | rfl | rfl <;> rfl
  · rw [instrOfCommand_of_unknown known, encode]

/-- The opcode map gives every record its right name, so only the record's own bounds are left to check (R85). -/
theorem wellFormed_instrOfCommand (c : Command) : WellFormed (instrOfCommand c) = wellFormedCommand c := by
  obtain ⟨op, payload, extra⟩ := c
  by_cases known : op ∈ knownOpcodes
  · rcases (mem_knownOpcodes_iff op).mp known with rfl | rfl | rfl | rfl | rfl | rfl | rfl | rfl <;> rfl
  · have unknown : isUnknownOpcode op = true := by simp [isUnknownOpcode, known]
    rw [instrOfCommand_of_unknown known, WellFormed, unknown, Bool.true_and]

/-- A stream decodes only where a whole header is followed by at least as many bytes as it says (R100, R101). -/
theorem decodeStream_ok (h : decodeStream bytes = .ok i rest) :
    ∃ op body, body.length < 2 ^ 32 ∧ bytes = headerBytes op body.length ++ body ++ rest ∧ i = decodePacket op body := by
  unfold decodeStream at h
  split at h
  case h_1 => cases h
  case h_2 b0 b1 b2 b3 b4 b5 b6 b7 tail =>
    dsimp only at h
    split at h
    case isTrue => cases h
    case isFalse hfit =>
      cases h
      have hbody : (tail.take (be32 b4 b5 b6 b7).toNat).length = (be32 b4 b5 b6 b7).toNat :=
        List.length_take_of_le (Nat.not_lt.mp hfit)
      refine ⟨be32 b0 b1 b2 b3, tail.take (be32 b4 b5 b6 b7).toNat, ?_, ?_, rfl⟩
      · rw [hbody]; exact (be32 b4 b5 b6 b7).isLt
      · rw [hbody, headerBytes, BitVec.ofNat_toNat, BitVec.setWidth_eq, bytes32_be32, bytes32_be32, List.append_assoc,
          List.take_append_drop]
        rfl
  case h_3 => cases h

/-- The record read from a payload section keeps R40's bounds, and its packet is the header and that section (R82 to R84). -/
theorem packet_of_body (op : Word) {body : List Byte} (hlen : body.length < 2 ^ 32) :
    wellFormedCommand ⟨op, payloadWords body, payloadExtra body⟩ = true ∧
    packetBytes ⟨op, payloadWords body, payloadExtra body⟩ = headerBytes op body.length ++ body := by
  constructor
  · rw [wellFormedCommand_iff, payloadSize_split]
    exact ⟨payloadExtra_length body, Nat.le_sub_one_of_lt hlen⟩
  · rw [packetBytes, payloadSize_split, List.append_assoc, payload_join]

/-- The converse of `decodeStream_packet`: a stream that decodes is the packet of a well-formed record, then the rest. -/
theorem decodeStream_ok_packet (h : decodeStream bytes = .ok i rest) :
    ∃ c, i = instrOfCommand c ∧ wellFormedCommand c = true ∧ bytes = packetBytes c ++ rest := by
  obtain ⟨op, body, hlen, hbytes, hi⟩ := decodeStream_ok h
  obtain ⟨hwf, hpacket⟩ := packet_of_body op hlen
  exact ⟨_, hi, hwf, by rw [hpacket]; exact hbytes⟩

end PacketRules

/-- Settles O44: the stream is the packet of the record it decodes to, and the encoder gives that packet again. -/
theorem encodeDecodeAgree : Obligations.EncodeDecodeAgree := by
  intro bytes rest i h
  obtain ⟨c, rfl, hwf, hbytes⟩ := decodeStream_ok_packet h
  refine ⟨by rw [wellFormed_instrOfCommand, hwf], packetBytes c, encode_instrOfCommand c, hbytes, ?_⟩
  rw [packetBytes_length]
  exact Nat.le_add_right 8 _

/-- Settles O42: the decoder computes on bytes written out. -/
theorem writtenOutPacketsDecode : Obligations.WrittenOutPacketsDecode :=
  ⟨rfl, rfl, rfl, rfl, rfl⟩

end Sys2Proof

namespace Sys2Proof.Machine

/-! ### The CTRL word (R93) -/

/-- What a CTRL word does is selected by its two low bits alone: no meaning reads the 30 ignored ones. -/
theorem exec_decodeCtrl_congr {v w : Word} (h : v.extractLsb' 0 2 = w.extractLsb' 0 2) (s : State) :
    exec (decodeCtrl v) s = exec (decodeCtrl w) s := by
  unfold decodeCtrl
  rw [h]
  split <;> rfl

theorem extractLsb'_and_three (v : Word) : (v &&& 3).extractLsb' 0 2 = v.extractLsb' 0 2 := by
  have hmask : (3 : Word).extractLsb' 0 2 = BitVec.allOnes 2 := rfl
  rw [BitVec.extractLsb'_and, hmask, BitVec.and_allOnes]

/-- Settles O16: masking with 3 keeps the two bits that select. -/
theorem ctrlBitsSelect : Obligations.CtrlBitsSelect :=
  ⟨fun v s => exec_decodeCtrl_congr (extractLsb'_and_three v).symm s, rfl, rfl, rfl, rfl⟩

/-! ### FILLER, the INPUT view and the buttons (R86, R87, R89) -/

/-- FILLER(f)'s packet: a header of size 20, the frame and four zero words. -/
theorem packetBytes_filler (f : Word) :
    packetBytes (filler f) = [0, 0, 0, 3, 0, 0, 0, 0x14] ++ bytes32 f ++ List.replicate 16 0 := by
  have header : headerBytes opInput 20 = [0, 0, 0, 3, 0, 0, 0, 0x14] := by decide
  have zeros : payloadBytes [0, 0, 0, 0] = List.replicate 16 0 := by decide
  calc packetBytes (filler f)
      = headerBytes opInput 20 ++ (bytes32 f ++ payloadBytes [0, 0, 0, 0]) ++ [] := rfl
    _ = [0, 0, 0, 3, 0, 0, 0, 0x14] ++ bytes32 f ++ List.replicate 16 0 := by
        rw [header, zeros, List.append_nil, List.append_assoc]

/-- Settles O46: a filler has no extra bytes, so that no policy reads it. -/
theorem fillerEncoding : Obligations.FillerEncoding := by
  intro f policy
  refine ⟨rfl, ?_⟩
  rw [filler_encodes, packetBytes_filler]

theorem inputView_of_opInput {c : Command} (h : c.opcode = opInput) :
    inputView c = some {
      frame   := c.payload[0]?
      player  := c.payload.getD 1 0
      buttons := c.payload.getD 2 0
      analog1 := c.payload.getD 3 0
      analog2 := c.payload.getD 4 0 } := by
  simp only [inputView, h, if_true, List.getD_eq_getElem?_getD]

/-- Settles O48: the view's fields are the payload's words, 0 where absent, and its frame the first one. -/
theorem inputViewDefaults : Obligations.InputViewDefaults := by
  intro c h
  refine ⟨_, inputView_of_opInput h, ?_, rfl, rfl, rfl, rfl⟩
  intro w ws hp
  simp only [hp, List.getElem?_cons_zero]

/-- The buttons in the order of R87. -/
def buttonOrder : List Button :=
  [.b, .y, .select, .start, .up, .down, .left, .right, .a, .x, .l, .r]

/-- R87 numbers the buttons 0 to 11 in its own order. -/
theorem buttonOrder_map_buttonBit : buttonOrder.map buttonBit = List.range 12 := by decide

theorem buttonHeld_eq_testBit (which : Button) (v : Word) : buttonHeld which v = v.toNat.testBit (buttonBit which) := rfl

/-- Settles O49: each button reads its own bit, and in the rule's order those bits are 0 to 11. -/
theorem buttonBits : Obligations.ButtonBits := by
  intro v
  calc buttonOrder.map (fun which => buttonHeld which v)
      = (buttonOrder.map buttonBit).map v.toNat.testBit := by
        simp only [List.map_map, Function.comp_def, buttonHeld_eq_testBit]
    _ = (List.range 12).map v.toNat.testBit := by rw [buttonOrder_map_buttonBit]

end Sys2Proof.Machine

/-! ## The codec (spec/40_codec.md)

First the two directions between records and packets; then what a kept packet command emits and how its emission ends;
then what decoding at IN_OFFSET reads and the FRAMER step that it makes; last, that IN past IN_LEN does not matter. -/

namespace Sys2Proof

/-! ### Decoding what was encoded (R110, R93) -/

/-- The command number of a CTRL word selects the command, and the ignored bits are carried (R93). -/
theorem decodeCtrl_ctrlWord (r : BitVec 30) :
    decodeCtrl (ctrlWord r 0) = .ctrlNop r ∧ decodeCtrl (ctrlWord r 1) = .startTransform r ∧
    decodeCtrl (ctrlWord r 2) = .startEncode r ∧ decodeCtrl (ctrlWord r 3) = .startDecode r := by
  refine ⟨?_, ?_, ?_, ?_⟩ <;> simp [decodeCtrl, ctrlWord_fields]

/-- A well-formed packet instruction is the one its record stands for, whichever its constructor (R85, R88). -/
theorem instrOfCommand_of_wellFormed {i : Instr} {c : Command} (hwf : WellFormed i = true) (hc : commandOf i = some c) :
    instrOfCommand c = i := by
  cases i with
  | input p x => exact Laws.OfCommand.input p x hwf c hc
  | noinput p x => exact Laws.OfCommand.noinput p x hwf c hc
  | info p x => exact Laws.OfCommand.info p x hwf c hc
  | mode p x => exact Laws.OfCommand.mode p x hwf c hc
  | crc p x => exact Laws.OfCommand.crc p x hwf c hc
  | loadSavestate p x => exact Laws.OfCommand.loadSavestate p x hwf c hc
  | reset p x => exact Laws.OfCommand.reset p x hwf c hc
  | flipPlayers p x => exact Laws.OfCommand.flipPlayers p x hwf c hc
  | unknown op p x => exact Laws.OfCommand.unknown op p x hwf c hc
  | ctrlNop r => exact Laws.OfCommand.ctrlNop r hwf c hc
  | startTransform r => exact Laws.OfCommand.startTransform r hwf c hc
  | startEncode r => exact Laws.OfCommand.startEncode r hwf c hc
  | startDecode r => exact Laws.OfCommand.startDecode r hwf c hc

/-- An instruction without a record is a CTRL command, and its word decodes to it (R93). -/
theorem decodeCtrl_of_commandOf_none {i : Instr} (hc : commandOf i = none) :
    ∃ v, encode i = .ctrl v ∧ decodeCtrl v = i := by
  cases i with
  | ctrlNop r => exact ⟨_, rfl, (decodeCtrl_ctrlWord r).1⟩
  | startTransform r => exact ⟨_, rfl, (decodeCtrl_ctrlWord r).2.1⟩
  | startEncode r => exact ⟨_, rfl, (decodeCtrl_ctrlWord r).2.2.1⟩
  | startDecode r => exact ⟨_, rfl, (decodeCtrl_ctrlWord r).2.2.2⟩
  | _ => cases hc

/-- A well-formed instruction is that of a well-formed record, or a CTRL command that its word decodes to. -/
theorem wellFormed_cases {i : Instr} (hwf : WellFormed i = true) :
    (∃ c, i = instrOfCommand c ∧ wellFormedCommand c = true) ∨ ∃ v, encode i = .ctrl v ∧ decodeCtrl v = i := by
  cases hc : commandOf i with
  | none => exact .inr (decodeCtrl_of_commandOf_none hc)
  | some c =>
    have hi := instrOfCommand_of_wellFormed hwf hc
    exact .inl ⟨c, hi.symm, by rw [← wellFormed_instrOfCommand, hi, hwf]⟩

/-- A well-formed instruction that encodes as a stream is that of a well-formed record, whose packet the stream is. -/
theorem packet_of_encode {i : Instr} {bytes : List Byte} (hwf : WellFormed i = true) (h : encode i = .stream bytes) :
    ∃ c, i = instrOfCommand c ∧ wellFormedCommand c = true ∧ bytes = packetBytes c := by
  rcases wellFormed_cases hwf with ⟨c, rfl, hc⟩ | ⟨v, hv, _⟩
  · rw [encode_instrOfCommand] at h
    cases h
    exact ⟨c, rfl, hc, rfl⟩
  · rw [hv] at h
    cases h

/-- Decoding a well-formed instruction's stream gives the instruction, and what follows it is left. -/
theorem decode_encode_append {i : Instr} {bytes : List Byte} (hwf : WellFormed i = true) (h : encode i = .stream bytes)
    (rest : List Byte) : decode (.stream (bytes ++ rest)) = .ok i rest := by
  obtain ⟨c, rfl, hc, rfl⟩ := packet_of_encode hwf h
  exact decodeStream_packet c hc rest

/-- Settles O43: a packet by the round trip of its record, a CTRL command by its word's two fields. -/
theorem decodeEncodeAgree : Obligations.DecodeEncodeAgree := by
  intro i hwf
  refine ⟨?_, fun bytes rest h => decode_encode_append hwf h rest⟩
  cases h : encode i with
  | stream bytes => simpa using decode_encode_append hwf h []
  | ctrl v =>
    rcases wellFormed_cases hwf with ⟨c, rfl, _⟩ | ⟨w, hw, hi⟩
    · rw [encode_instrOfCommand] at h; cases h
    · rw [hw] at h; cases h; rw [decode, hi]

end Sys2Proof

namespace Sys2Proof.Machine

/-! ### The machine's ENCODE and the decoder (R106, R109, R110) -/

/-- Where no extra bytes are at stake ENCODE gives the packet of a record within bounds (R106). -/
theorem encodeCommand_packet {policy : ExtraPolicy} {c : Command} (hwf : wellFormedCommand c = true)
    (hx : c.extra = [] ∨ policy = .emit) : encodeCommand policy c = .ok (packetBytes c) := by
  rcases encodeCommand_cases policy c with ⟨hbad, _⟩ | ⟨_, _, h⟩ | ⟨_, hne, hp, _⟩ | ⟨_, _, _, h⟩ | ⟨_, hne, hp, _⟩
  · simp [hwf] at hbad
  · exact h
  · simp [hne, hp] at hx
  · exact h
  · simp [hne, hp] at hx

/-- Settles O45: both ways ENCODE's bytes are the packet of the record. -/
theorem codecRoundTrip : Obligations.CodecRoundTrip := by
  intro policy c rest hx
  constructor
  · intro hextra hsize
    have hwf := (wellFormedCommand_iff c).mpr ⟨hextra, hsize⟩
    refine ⟨packetBytes c, encodeCommand_packet hwf hx, ?_, decodeStream_packet c hwf rest, commandOf_instrOfCommand c⟩
    rw [packetBytes_length, payloadSize, Nat.add_assoc]
  · intro stream i hdecode hcommand
    obtain ⟨d, rfl, hwf, rfl⟩ := decodeStream_ok_packet hdecode
    rw [commandOf_instrOfCommand] at hcommand
    cases hcommand
    exact ⟨packetBytes c, encodeCommand_packet hwf hx, rfl⟩

/-- OmitLiteral's bytes with as many bytes after them as they leave out are a packet with those as extra bytes (R109). -/
theorem omitLiteral_append {c : Command} {bytes next : List Byte} (hx : c.extra ≠ [])
    (h : encodeCommand .omitLiteral c = .ok bytes) (hnext : next.length = c.extra.length) :
    wellFormedCommand { c with extra := next } = true ∧ bytes ++ next = packetBytes { c with extra := next } := by
  have hsize : payloadSize { c with extra := next } = payloadSize c := by simp [payloadSize, hnext]
  rcases encodeCommand_cases .omitLiteral c with ⟨_, e⟩ | ⟨_, hnil, _⟩ | ⟨_, _, hp, _⟩ | ⟨_, _, hp, _⟩ | ⟨hwf, _, _, e⟩
  · rw [e] at h; cases h
  · exact absurd hnil hx
  · cases hp
  · cases hp
  · rw [e] at h
    cases h
    refine ⟨?_, by rw [packetBytes, hsize]⟩
    rw [wellFormedCommand_iff] at hwf ⊢
    rwa [hsize, hnext]

/-- Settles O47: with `next` behind it the encoding is a packet, which decodes with `next` as its extra bytes. -/
theorem omitLiteralMisframes : Obligations.OmitLiteralMisframes := by
  intro c bytes next rest hx _ h hnext
  obtain ⟨hwf, hbytes⟩ := omitLiteral_append hx h hnext
  rw [hbytes]
  exact decodeStream_packet _ hwf rest

end Sys2Proof.Machine

namespace Sys2Proof.Machine

section Emission

variable {s : State} {i : Instr} {op : Word} {p ws : List Word} {x : List Byte} {w f : Word}

/-! ### A packet command in the statements' terms (R104, R106, R107) -/

theorem advance_eq_pastPacket (op : Word) (p : List Word) (x : List Byte) (s : State) :
    advance ⟨op, p, x⟩ s = pastPacket (8 + 4 * p.length + x.length) s := by
  rw [advance, pastPacket, payloadSize, Nat.add_assoc]

/-- ENCODE's bytes where EXTRA_POLICY does not stand in the way (R106). -/
theorem encodeCommand_wireBytes {policy : ExtraPolicy} (hwf : wellFormedCommand ⟨op, p, x⟩ = true)
    (hx : x = [] ∨ policy ≠ .fault) : encodeCommand policy ⟨op, p, x⟩ = .ok (wireBytes policy op p x) := by
  rcases encodeCommand_cases policy ⟨op, p, x⟩ with
    ⟨hbad, _⟩ | ⟨_, hnil, h⟩ | ⟨_, hne, hp, _⟩ | ⟨_, _, rfl, h⟩ | ⟨_, _, rfl, h⟩
  · simp [hwf] at hbad
  · dsimp only at hnil
    subst hnil
    rw [h, wireBytes, ite_self]
    rfl
  · exact absurd hp (hx.resolve_left hne)
  · rw [h]; rfl
  · rw [h, wireBytes, if_pos rfl, List.append_nil]
    rfl

/-- ENCODE's error for extra bytes under Fault (R106). -/
theorem encodeCommand_fault (hwf : wellFormedCommand ⟨op, p, x⟩ = true) (hx : x ≠ []) :
    encodeCommand .fault ⟨op, p, x⟩ = .error .extraUnencodable := by
  rcases encodeCommand_cases .fault ⟨op, p, x⟩ with
    ⟨hbad, _⟩ | ⟨_, hnil, _⟩ | ⟨_, _, _, h⟩ | ⟨_, _, hp, _⟩ | ⟨_, _, hp, _⟩
  · simp [hwf] at hbad
  · exact absurd hnil hx
  · exact h
  · cases hp
  · cases hp

theorem emit_error {c : Command} {e : ErrCode} (o : Word) (h : encodeCommand (policyInForce s) c = .error e) :
    emit c o s = .stop (failed e o s) := by
  rw [emit, h]; rfl

theorem emit_overflow {c : Command} {bytes : List Byte} (o : Word) (h : encodeCommand (policyInForce s) c = .ok bytes)
    (hfit : ¬ fits bytes s) : emit c o s = .stop (failed .outOverflow o s) := by
  simp only [emit, h, writePacket]
  exact if_pos (Nat.not_le.mp hfit)

theorem emit_fits {c : Command} {bytes : List Byte} (o : Word) (h : encodeCommand (policyInForce s) c = .ok bytes)
    (hfit : fits bytes s) : emit c o s = .go () (sent bytes s) := by
  simp only [emit, h, writePacket]
  exact if_neg (Nat.not_lt.mpr hfit)

/-! ### Steps 1 and 2 of a kept command (R154, R155, R157) -/

theorem adjust_kept (o : Word) (hadj : adjustsTo s w f.toNat) (hfloor : s.floor.toNat ≤ f.toNat) :
    adjust ⟨op, w :: ws, x⟩ o s = .go ⟨op, f :: ws, x⟩ (setLastFrame f s) := by
  have hf : adjustedFrame w s.delay = f.toNat := hadj.symm
  have hlt := f.isLt
  rcases adjust_cases ⟨op, w :: ws, x⟩ o s with ⟨hnil, _⟩ | ⟨w', ws', hw, hlow, _⟩ | ⟨w', ws', hw, _, hhigh, _⟩ |
    ⟨w', ws', g, hw, _, hg, h⟩
  · cases hnil
  · cases hw; omega
  · cases hw; omega
  · cases hw
    have hgf : g = f := BitVec.eq_of_toNat_eq (by omega)
    rw [h, hgf]

theorem gateClosed_eq_false_iff (s : State) : gateClosed s = false ↔ gatePasses s := by
  rw [gateClosed, Bool.and_eq_false_iff, Bool.not_eq_false', gateConfigured, gatePasses]

theorem passGate_of_gatePasses (c : Command) (h : gatePasses s) : passGate c s = .go () s := by
  rw [passGate, (gateClosed_eq_false_iff s).mpr h]
  rfl

/-- A RESET passes, and leaves the gate open where GATE = 1 or where it was open (R157). -/
theorem passGate_opReset (p : List Word) (x : List Byte) (s : State) :
    passGate ⟨opReset, p, x⟩ s = .go () { s with gateOpen := s.gateOpen || gateConfigured s } := by
  rcases passGate_cases ⟨opReset, p, x⟩ s with ⟨hopen, h⟩ | ⟨hclosed, _, h⟩ | ⟨_, hne, _⟩
  · have hsame : (s.gateOpen || gateConfigured s) = s.gateOpen := by
      rw [gateClosed] at hopen
      cases hg : s.gateOpen <;> simp_all
    rw [h, hsame]
  · have hconf : gateConfigured s = true := by
      rw [gateClosed, Bool.and_eq_true] at hclosed
      exact hclosed.1
    rw [h, hconf, Bool.or_true]
    rfl
  · exact absurd rfl hne

/-! ### What a kept command comes to: its emission (R120 to R128, R158) -/

theorem exec_frameForm (h : (i, op) ∈ frameForms p x) (s : State) : exec i s = runCommand ⟨op, p, x⟩ transformFrame s := by
  simp only [frameForms, List.mem_cons, Prod.mk.injEq, List.not_mem_nil, or_false] at h
  rcases h with ⟨rfl, rfl⟩ | ⟨rfl, rfl⟩ | ⟨rfl, rfl⟩ | ⟨rfl, rfl⟩ | ⟨rfl, rfl⟩ | ⟨rfl, rfl⟩ <;> rfl

theorem wellFormedCommand_frameForm (h : (i, op) ∈ frameForms p x) (hwf : WellFormed i = true) :
    wellFormedCommand ⟨op, p, x⟩ = true := by
  simp only [frameForms, List.mem_cons, Prod.mk.injEq, List.not_mem_nil, or_false] at h
  rcases h with ⟨rfl, rfl⟩ | ⟨rfl, rfl⟩ | ⟨rfl, rfl⟩ | ⟨rfl, rfl⟩ | ⟨rfl, rfl⟩ | ⟨rfl, rfl⟩ <;> exact hwf

theorem exec_plainForm {n : Word} (h : (i, op) ∈ plainForms n p x) (s : State) :
    exec i s = runCommand ⟨op, p, x⟩ transformPlain s := by
  simp only [plainForms, List.mem_cons, Prod.mk.injEq, List.not_mem_nil, or_false] at h
  rcases h with ⟨rfl, rfl⟩ | ⟨rfl, rfl⟩ <;> rfl

theorem wellFormedCommand_plainForm {n : Word} (h : (i, op) ∈ plainForms n p x) (hwf : WellFormed i = true) :
    wellFormedCommand ⟨op, p, x⟩ = true := by
  simp only [plainForms, List.mem_cons, Prod.mk.injEq, List.not_mem_nil, or_false] at h
  rcases h with ⟨rfl, rfl⟩ | ⟨rfl, rfl⟩
  · exact hwf
  · exact (Bool.and_eq_true_iff.mp hwf).2

/-- ADJUST rewrites word 0, which the bounds do not look at (R40). -/
theorem wellFormedCommand_word_zero (f : Word) (h : wellFormedCommand ⟨op, w :: ws, x⟩ = true) :
    wellFormedCommand ⟨op, f :: ws, x⟩ = true := h

theorem runCommand_transform (op : Word) (p : List Word) (x : List Byte) (g : Command → Word → State → State)
    (hrun : runningIn .transform s) :
    runCommand ⟨op, p, x⟩ g s = .next (g ⟨op, p, x⟩ s.inOffset (pastPacket (8 + 4 * p.length + x.length) s)) := by
  simp only [runCommand, hrun.1, hrun.2, advance_eq_pastPacket]

/-- The state in which a kept frame-bearing command reaches the gate (R104, R155). -/
def framed (f : Word) (ws : List Word) (x : List Byte) (s : State) : State :=
  { pastPacket (8 + 4 * (ws.length + 1) + x.length) s with lastFrame := f }

/-- The state in which a kept RESET is emitted (R126). -/
def resetReady (f : Word) (ws : List Word) (x : List Byte) (s : State) : State :=
  resetKept f (pastPacket (8 + 4 * (ws.length + 1) + x.length) s)

theorem adjust_framed (o : Word) (hadj : adjustsTo s w f.toNat) (hfloor : s.floor.toNat ≤ f.toNat) :
    adjust ⟨op, w :: ws, x⟩ o (pastPacket (8 + 4 * (w :: ws).length + x.length) s) =
      .go ⟨op, f :: ws, x⟩ (framed f ws x s) :=
  adjust_kept (s := pastPacket _ s) o hadj hfloor

/-- Steps 2 and 3 of a kept RESET, which no gate stops (R126, R157, R158). -/
theorem gateAndEmit_reset (f : Word) (ws : List Word) (x : List Byte) (o : Word) (s : State) :
    gateAndEmit ⟨opReset, f :: ws, x⟩ o (framed f ws x s) = emit ⟨opReset, f :: ws, x⟩ o (resetReady f ws x s) := by
  rw [gateAndEmit, passGate_opReset]
  rfl

theorem exec_frame_kept (h : (i, op) ∈ frameForms (w :: ws) x) (hrun : runningIn .transform s)
    (hadj : adjustsTo s w f.toNat) (hfloor : s.floor.toNat ≤ f.toNat) (hgate : gatePasses s) :
    exec i s = .next (emit ⟨op, f :: ws, x⟩ s.inOffset (framed f ws x s)).state := by
  have hpass := passGate_of_gatePasses (s := framed f ws x s) ⟨op, f :: ws, x⟩ hgate
  rw [exec_frameForm h, runCommand_transform _ _ _ _ hrun, transformFrame, adjust_framed _ hadj hfloor]
  dsimp only
  rw [gateAndEmit, hpass]

theorem exec_plain_kept {n : Word} (h : (i, op) ∈ plainForms n p x) (hrun : runningIn .transform s)
    (hgate : gatePasses s) :
    exec i s = .next (emit ⟨op, p, x⟩ s.inOffset (pastPacket (8 + 4 * p.length + x.length) s)).state := by
  have hpass := passGate_of_gatePasses (s := pastPacket (8 + 4 * p.length + x.length) s) ⟨op, p, x⟩ hgate
  rw [exec_plainForm h, runCommand_transform _ _ _ _ hrun, transformPlain, gateAndEmit, hpass]

theorem exec_reset_stop {t : State} (hrun : runningIn .transform s) (hadj : adjustsTo s w f.toNat)
    (hfloor : s.floor.toNat ≤ f.toNat)
    (hemit : emit ⟨opReset, f :: ws, x⟩ s.inOffset (resetReady f ws x s) = .stop t) :
    exec (.reset (w :: ws) x) s = .next t := by
  rw [exec, execReset, runCommand_transform _ _ _ _ hrun, transformReset, adjust_framed _ hadj hfloor]
  dsimp only
  rw [gateAndEmit_reset, hemit]

theorem exec_reset_go {t : State} (hrun : runningIn .transform s) (hadj : adjustsTo s w f.toNat)
    (hfloor : s.floor.toNat ≤ f.toNat)
    (hemit : emit ⟨opReset, f :: ws, x⟩ s.inOffset (resetReady f ws x s) = .go () t) :
    exec (.reset (w :: ws) x) s = .next (handleReset f s.inOffset t) := by
  rw [exec, execReset, runCommand_transform _ _ _ _ hrun, transformReset, adjust_framed _ hadj hfloor]
  dsimp only
  rw [gateAndEmit_reset, hemit]

end Emission

/-- Settles O11: the command comes to its emission, and ENCODE answers the error. -/
theorem extraUnencodableError : Obligations.ExtraUnencodableError := by
  intro n w f p ws x i op s hwf hrun hx hpolicy
  have stops : ∀ {op q} (t : State), policyInForce t = policyInForce s → wellFormedCommand ⟨op, q, x⟩ = true →
      emit ⟨op, q, x⟩ s.inOffset t = .stop (failed .extraUnencodable s.inOffset t) := fun t ht hc =>
    emit_error _ (by rw [ht, hpolicy]; exact encodeCommand_fault hc hx)
  refine ⟨fun h hadj hfloor hgate => ?_, fun h hadj hfloor => ?_, fun h hgate => ?_⟩
  · have hc := wellFormedCommand_word_zero f (wellFormedCommand_frameForm h hwf)
    rw [exec_frame_kept h hrun hadj hfloor hgate, stops (framed f ws x s) rfl hc]
    rfl
  · subst h
    exact exec_reset_stop hrun hadj hfloor (stops _ rfl (wellFormedCommand_word_zero f hwf))
  · rw [exec_plain_kept h hrun hgate, stops (pastPacket _ s) rfl (wellFormedCommand_plainForm h hwf)]
    rfl

/-- Settles O12: the command comes to its emission, and ENCODE's bytes do not fit. -/
theorem outOverflowError : Obligations.OutOverflowError := by
  intro n w f p ws x i op s hwf hrun hx
  have stops : ∀ {op q} (t : State), policyInForce t = policyInForce s → wellFormedCommand ⟨op, q, x⟩ = true →
      ¬ fits (wireBytes (policyInForce s) op q x) t →
      emit ⟨op, q, x⟩ s.inOffset t = .stop (failed .outOverflow s.inOffset t) := fun t ht hc hfit =>
    emit_overflow _ (by rw [ht]; exact encodeCommand_wireBytes hc hx) hfit
  refine ⟨fun h hadj hfloor hgate hfit => ?_, fun h hadj hfloor hfit => ?_, fun h hgate hfit => ?_⟩
  · have hc := wellFormedCommand_word_zero f (wellFormedCommand_frameForm h hwf)
    rw [exec_frame_kept h hrun hadj hfloor hgate, stops (framed f ws x s) rfl hc hfit]
    rfl
  · subst h
    exact exec_reset_stop hrun hadj hfloor (stops _ rfl (wellFormedCommand_word_zero f hwf) hfit)
  · rw [exec_plain_kept h hrun hgate, stops (pastPacket _ s) rfl (wellFormedCommand_plainForm h hwf) hfit]
    rfl

/-! ### Fillers that stop fitting (R107, R160) -/

/-- The statements' fillers are the model's (R89). -/
theorem fillersFrom_eq (f n : Nat) : fillersFrom f n = fillerBytes f n := by
  induction n generalizing f with
  | zero => rfl
  | succ n ih =>
    rw [fillerBytes, ← ih, fillersFrom, List.range_succ_eq_map, List.flatMap_cons, List.flatMap_map]
    simp only [fillersFrom, Nat.succ_eq_add_one, Nat.add_comm, Nat.add_left_comm]
    rfl

/-- Once the first `m` fillers stand, the rest is emitted from frame `f + m` on (R160). -/
theorem emitFillers_add {info : Word} {m f : Nat} {s t : State} (h : emitFillers info m f s = .go () t) (n : Nat) :
    emitFillers info (m + n) f s = emitFillers info n (f + m) t := by
  induction m generalizing f s with
  | zero => cases h; rw [Nat.zero_add, Nat.add_zero]
  | succ m ih =>
    rw [emitFillers] at h
    rw [Nat.succ_add, emitFillers]
    split at h
    · cases h
    · rename_i hf
      rw [if_neg hf]
      cases he : emit (filler (BitVec.ofNat 32 f)) info s with
      | stop u => rw [he] at h; cases h
      | go a u =>
        rw [he] at h
        dsimp only at h ⊢
        rw [ih h, Nat.add_right_comm, Nat.add_assoc]

/-- The first of `n + 1` fillers, with a u32 frame, does not fit (R107, R160). -/
theorem emitFillers_overflow (info : Word) (n : Nat) {f : Nat} {s : State} (hf : f ≤ 2 ^ 32 - 1)
    (hfit : s.outCap.toNat < s.outLen.toNat + 28) :
    emitFillers info (n + 1) f s = .stop (failed .outOverflow info s) := by
  have hlen : (packetBytes (filler (BitVec.ofNat 32 f))).length = 28 := packetBytes_length _
  rw [emitFillers, if_neg (Nat.not_lt.mpr hf), emit_overflow info (filler_encodes _ _)]
  rw [fits, hlen]
  exact Nat.not_le.mpr hfit

/-- Fillers of which only the first `m` fit: those stand, and E_OUT_OVERFLOW is entered (R107, R160). -/
theorem emitFillers_stop_full {info : Word} {n m f : Nat} {s : State} (hm : m < n) (hf : f + m ≤ 2 ^ 32 - 1)
    (hfit : s.outLen.toNat + 28 * m ≤ s.outCap.toNat) (hfull : s.outCap.toNat < s.outLen.toNat + 28 * (m + 1)) :
    emitFillers info n f s = .stop (failed .outOverflow info (appendOut (fillerBytes f m) s)) := by
  obtain ⟨k, rfl⟩ := Nat.exists_eq_add_of_lt hm
  have hlen : (appendOut (fillerBytes f m) s).outLen.toNat = s.outLen.toNat + 28 * m := by
    rw [appendOut_outLen_toNat (by rwa [fillerBytes_length]), fillerBytes_length]
  rw [Nat.add_assoc, emitFillers_add (emitFillers_all info m f s hfit (by omega)), emitFillers_overflow info k hf]
  rw [appendOut_outCap, hlen]
  omega

/-- Step 4 of a RESET whose fillers stop fitting after `m` of them: DELAY and FLOOR are not updated (R107, R160, R161). -/
theorem handleReset_stop_full {m : Nat} {f o : Word} {s : State} (hm : m < fillerCount s)
    (hf : f.toNat + m ≤ 2 ^ 32 - 1) (hfit : s.outLen.toNat + 28 * m ≤ s.outCap.toNat)
    (hfull : s.outCap.toNat < s.outLen.toNat + 28 * (m + 1)) :
    handleReset f o s = failed .outOverflow o (appendOut (fillerBytes f.toNat m) s) := by
  have hdelay : delayPerReset s ≠ 0 := fun h => by simp [fillerCount, h] at hm
  rw [handleReset, if_neg hdelay, emitFillers_stop_full hm hf hfit hfull]

/-- Settles O6: the RESET's packet fits and is emitted, and step 4 stops at filler `m + 1`. -/
theorem fillerOverflowError : Obligations.FillerOverflowError := by
  intro w ws x f m s hwf hrun hadj hfloor hx hm hframe hfit hfull
  rw [fillersFrom_eq, fits, List.length_append, fillerBytes_length, ← Nat.add_assoc] at hfit hfull
  have hencode : encodeCommand (policyInForce s) ⟨opReset, f :: ws, x⟩ =
      .ok (wireBytes (policyInForce s) 0x46 (f :: ws) x) :=
    encodeCommand_wireBytes (wellFormedCommand_word_zero f hwf) hx
  generalize wireBytes (policyInForce s) 0x46 (f :: ws) x = packet at *
  have hpacket : fits packet (resetReady f ws x s) := (Nat.le_add_right _ _).trans hfit
  have hlen : (appendOut packet (resetReady f ws x s)).outLen.toNat = s.outLen.toNat + packet.length :=
    appendOut_outLen_toNat hpacket
  have hstop : handleReset f s.inOffset (appendOut packet (resetReady f ws x s)) = _ :=
    handleReset_stop_full hm hframe (by rw [hlen]; exact hfit) (by rw [hlen]; exact Nat.not_le.mp hfull)
  rw [exec_reset_go hrun hadj hfloor (emit_fits _ hencode hpacket)]
  rw [appendOut_appendOut, ← fillersFrom_eq] at hstop
  exact congrArg _ hstop

end Sys2Proof.Machine

namespace Sys2Proof

theorem toNat_append_eq_add {m n : Nat} (x : BitVec m) (y : BitVec n) : (x ++ y).toNat = x.toNat * 2 ^ n + y.toNat := by
  rw [BitVec.toNat_append, ← Nat.shiftLeft_add_eq_or_of_lt y.isLt, Nat.shiftLeft_eq]

/-- `be32` as a number: the first byte is the most significant (R10, R63). -/
theorem be32_toNat (b0 b1 b2 b3 : Byte) :
    (be32 b0 b1 b2 b3).toNat = b0.toNat * 2 ^ 24 + b1.toNat * 2 ^ 16 + b2.toNat * 2 ^ 8 + b3.toNat := by
  simp only [be32, toNat_append_eq_add]
  omega

end Sys2Proof

namespace Sys2Proof.Machine

/-! ### Reads of IN in the statements' terms (R60, R196) -/

section Reads

variable {s : State} {a n : Nat}

theorem afterReads_eq_setDraws (addrs : List Nat) (s : State) :
    afterReads addrs s = setDraws (afterReads addrs s).draws s := rfl

@[simp] theorem afterReads_inMem (addrs : List Nat) (s : State) : (afterReads addrs s).inMem = s.inMem := rfl

theorem afterReads_append (as bs : List Nat) (s : State) : afterReads (as ++ bs) s = afterReads bs (afterReads as s) := by
  simp only [afterReads, unloaded, List.countP_append, Nat.add_assoc]

theorem afterReads_cons (a : Nat) (as : List Nat) (s : State) : afterReads (a :: as) s = afterReads as (afterReads [a] s) :=
  afterReads_append [a] as s

/-- One read gives its byte and goes on from the state with its draw, if it took one, counted. -/
theorem readInOrder_cons (a : Nat) (as : List Nat) (s : State) :
    readInOrder s (a :: as) = (readByte s.inMem a s.draws).1 :: readInOrder (afterReads [a] s) as := by
  have hcount : ∀ i, s.draws + unloaded s ((a :: as).take (i + 1)) =
      (afterReads [a] s).draws + unloaded (afterReads [a] s) (as.take i) := fun i =>
    congrArg State.draws (afterReads_cons a (as.take i) s)
  rw [readInOrder, List.zipIdx_cons, List.zipIdx_succ, List.map_cons, List.map_map, readByte_eq]
  refine congrArg₂ _ rfl (List.map_congr_left fun ⟨b, i⟩ _ => ?_)
  exact congrArg (fun d => (Memory.read s.inMem b).getD (Config.freeByte d)) (hcount i)

theorem readInOrder_append (as bs : List Nat) (s : State) :
    readInOrder s (as ++ bs) = readInOrder s as ++ readInOrder (afterReads as s) bs := by
  induction as generalizing s with
  | nil => rfl
  | cons a as ih =>
    rw [List.cons_append, readInOrder_cons, readInOrder_cons, ih, afterReads_cons a as, List.cons_append]

theorem readInOrder_length (s : State) (addrs : List Nat) : (readInOrder s addrs).length = addrs.length := by
  simp [readInOrder]

/-- `MemRead` is the reads in rising order of address (R10). -/
theorem readBytes_eq_readInOrder (a n : Nat) (s : State) :
    readBytes s.inMem a n s.draws = (readInOrder s (List.range' a n), (afterReads (List.range' a n) s).draws) := by
  induction n generalizing a s with
  | zero => rfl
  | succ n ih =>
    have hbyte : readByte s.inMem a s.draws = ((readByte s.inMem a s.draws).1, (afterReads [a] s).draws) := by
      rw [readByte_eq]; rfl
    have htail := ih (a + 1) (afterReads [a] s)
    rw [afterReads_inMem] at htail
    rw [List.range'_succ, readInOrder_cons, afterReads_cons a (List.range' (a + 1) n), readBytes, hbyte]
    dsimp only
    rw [htail]

/-- A word is read as its four bytes (R63). -/
theorem readWord_of_readBytes {m : Memory} {draws d : Nat} {v : Word} (h : readBytes m a 4 draws = (bytes32 v, d)) :
    readWord m a draws = (v, d) := by
  simp only [readBytes, bytes32, Prod.mk.injEq, List.cons.injEq, and_true] at h
  obtain ⟨⟨h0, h1, h2, h3⟩, hd⟩ := h
  simp only [readWord, Prod.mk.injEq]
  exact ⟨by rw [h0, h1, h2, h3, be32_bytes32], hd⟩

theorem readWord_of_readInOrder {v : Word} (h : readInOrder s (List.range' a 4) = bytes32 v) :
    readWord s.inMem a s.draws = (v, (afterReads (List.range' a 4) s).draws) :=
  readWord_of_readBytes (by rw [readBytes_eq_readInOrder, h])

/-- Loaded bytes read as loaded and take no draw (R60). -/
theorem readInOrder_loaded {bytes : List Byte} (h : inHolds s a bytes) :
    readInOrder s (List.range' a bytes.length) = bytes ∧ afterReads (List.range' a bytes.length) s = s := by
  have hread := (readBytes_eq_readInOrder a bytes.length s).symm.trans (readBytes_loaded s.inMem a s.draws bytes h)
  obtain ⟨hbytes, hdraws⟩ := Prod.mk.inj hread
  refine ⟨hbytes, ?_⟩
  rw [afterReads_eq_setDraws, hdraws]
  rfl

theorem inHolds_append {x y : List Byte} (h : inHolds s a (x ++ y)) : inHolds s a x ∧ inHolds s (a + x.length) y := by
  constructor
  · intro k hk
    rw [h k (by rw [List.length_append]; omega), List.getElem?_append_left hk]
  · intro k hk
    rw [Nat.add_assoc, h (x.length + k) (by rw [List.length_append]; omega),
      List.getElem?_append_right (Nat.le_add_right _ _), Nat.add_sub_cancel_left]

/-! ### The reads of one packet (R101 to R103) -/

theorem sizeAddrs_eq (s : State) : sizeAddrs s = List.range' (s.inOffset.toNat + 4) 4 := rfl

theorem packetAddrs_eq (n : Nat) (s : State) :
    packetAddrs n s = List.range' (s.inOffset.toNat + 4) 4 ++ List.range' s.inOffset.toNat 4 ++
      List.range' (s.inOffset.toNat + 8) n := by
  rw [packetAddrs, sizeAddrs_eq, ← List.range'_eq_map_range, ← List.range'_eq_map_range]

/-- The state after reading the size word at IN_OFFSET, and then the opcode word. -/
def afterHeader (s : State) : State :=
  afterReads (List.range' s.inOffset.toNat 4) (afterReads (sizeAddrs s) s)

@[simp] theorem afterHeader_inMem (s : State) : (afterHeader s).inMem = s.inMem := rfl

theorem afterReads_packetAddrs (n : Nat) (s : State) :
    afterReads (packetAddrs n s) s = afterReads (List.range' (s.inOffset.toNat + 8) n) (afterHeader s) := by
  rw [packetAddrs_eq, afterReads_append, afterReads_append]
  rfl

/-- A packet's bytes in stream order: the opcode word, read second; the size word, read first; the payload section. -/
theorem packetRead_eq (n : Nat) (s : State) :
    packetRead n s = readInOrder (afterReads (sizeAddrs s) s) (List.range' s.inOffset.toNat 4) ++
      readInOrder s (sizeAddrs s) ++ readInOrder (afterHeader s) (List.range' (s.inOffset.toNat + 8) n) := by
  have hsize : (readInOrder s (sizeAddrs s)).length = 4 := readInOrder_length _ _
  have hopcode : (readInOrder (afterReads (sizeAddrs s) s) (List.range' s.inOffset.toNat 4)).length = 4 :=
    readInOrder_length _ _
  rw [packetRead, packetAddrs_eq, readInOrder_append, readInOrder_append, afterReads_append, ← sizeAddrs_eq]
  change _ = _ ++ _ ++ readInOrder (afterReads _ (afterReads _ s)) _
  generalize readInOrder s (sizeAddrs s) = size at *
  generalize readInOrder (afterReads (sizeAddrs s) s) (List.range' s.inOffset.toNat 4) = opcode at *
  simp [List.append_assoc, List.drop_append, hsize, hopcode]

theorem packetRead_length (n : Nat) (s : State) : (packetRead n s).length = 8 + n := by
  simp [packetRead_eq, readInOrder_length, sizeAddrs]
  omega

/-- The reads of a packet whose bytes are all loaded. -/
theorem packetRead_loaded {opcode size body : List Byte} (hopcode : opcode.length = 4) (hsize : size.length = 4)
    (h : inHolds s s.inOffset.toNat (opcode ++ size ++ body)) :
    packetRead body.length s = opcode ++ size ++ body ∧ afterReads (packetAddrs body.length s) s = s := by
  obtain ⟨hheader, hbody⟩ := inHolds_append h
  obtain ⟨hopcodeIn, hsizeIn⟩ := inHolds_append hheader
  obtain ⟨readOpcode, drawOpcode⟩ := readInOrder_loaded hopcodeIn
  obtain ⟨readSize, drawSize⟩ := readInOrder_loaded hsizeIn
  obtain ⟨readBody, drawBody⟩ := readInOrder_loaded hbody
  rw [List.length_append, hopcode, hsize] at readBody drawBody
  rw [hopcode] at readOpcode drawOpcode readSize drawSize
  rw [hsize, ← sizeAddrs_eq] at readSize drawSize
  have hafter : afterHeader s = s := by rw [afterHeader, drawSize, drawOpcode]
  constructor
  · rw [packetRead_eq, hafter, drawSize, readOpcode, readSize, readBody]
  · rw [afterReads_packetAddrs, hafter, drawBody]

/-! ### What DECODE_AT finds (R100 to R103) -/

theorem fetch_endOfStream (h : s.inLen.toNat ≤ s.inOffset.toNat) : fetch s = .endOfStream :=
  if_pos h

theorem fetch_truncatedHeader (hstart : s.inOffset.toNat < s.inLen.toNat) (hshort : s.inLen.toNat < s.inOffset.toNat + 8) :
    fetch s = .truncatedHeader := by
  rw [fetch, if_neg (by omega), if_pos (by omega)]

theorem fetch_truncatedPayload {size : Word} (hheader : s.inOffset.toNat + 8 ≤ s.inLen.toNat)
    (hsize : readInOrder s (sizeAddrs s) = bytes32 size) (hshort : s.inLen.toNat - s.inOffset.toNat - 8 < size.toNat) :
    fetch s = .truncatedPayload (afterReads (sizeAddrs s) s).draws := by
  rw [fetch, if_neg (by omega), if_neg (by omega), readWord_of_readInOrder hsize]
  exact if_pos hshort

/-- A packet that lies below IN_LEN is found, as its reads give it. -/
theorem fetch_packet {opcode : Word} {body : List Byte} (hfit : s.inOffset.toNat + 8 + body.length ≤ s.inLen.toNat)
    (hread : packetRead body.length s = headerBytes opcode body.length ++ body) :
    fetch s = .packet opcode body (afterReads (packetAddrs body.length s) s).draws := by
  rw [packetRead_eq, headerBytes] at hread
  obtain ⟨hheader, hbody⟩ := List.append_inj hread (by simp [readInOrder_length, sizeAddrs, bytes32_length])
  obtain ⟨hopcode, hsize⟩ := List.append_inj hheader (by simp [readInOrder_length, bytes32_length])
  have hsizeNat : (BitVec.ofNat 32 body.length).toNat = body.length := by
    have := s.inLen.isLt
    rw [BitVec.toNat_ofNat]
    omega
  have readSize : readWord s.inMem (s.inOffset.toNat + 4) s.draws = (_, (afterReads (sizeAddrs s) s).draws) :=
    readWord_of_readInOrder hsize
  have readOpcode : readWord s.inMem s.inOffset.toNat (afterReads (sizeAddrs s) s).draws =
      (opcode, (afterHeader s).draws) :=
    readWord_of_readInOrder (s := afterReads (sizeAddrs s) s) hopcode
  have readBody : readBytes s.inMem (s.inOffset.toNat + 8) body.length (afterHeader s).draws =
      (body, (afterReads (packetAddrs body.length s) s).draws) := by
    rw [afterReads_packetAddrs]
    have hbytes := readBytes_eq_readInOrder (s.inOffset.toNat + 8) body.length (afterHeader s)
    rwa [hbody, afterHeader_inMem] at hbytes
  rw [fetch, if_neg (by omega), if_neg (by omega), readSize]
  dsimp only
  rw [hsizeNat, if_neg (by omega), readOpcode]
  dsimp only
  rw [readBody]

end Reads

end Sys2Proof.Machine

namespace Sys2Proof.Machine

/-! ### The FRAMER's step (R104, R165, R194, R195, R200) -/

section Steps

variable {s : State}

theorem step_framersTurn (h : framersTurn s) : step s = framerStep (afterTurn s) := by
  rcases step_cases s with ⟨op, rest, hs, _⟩ | ⟨_, e⟩
  · exact absurd hs (h op rest)
  · exact e

theorem framerStep_transform (h : runningIn .transform s) : framerStep s = fetchStep transformEnd s := by
  rw [framerStep, h.1, h.2]

theorem framerStep_decode (h : runningIn .decode s) : framerStep s = fetchStep finishRun s := by
  rw [framerStep, h.1, h.2]

theorem framerStep_encode (h : runningIn .encode s) : framerStep s = encodeStep s := by
  rw [framerStep, h.1, h.2]

/-- The two modes that decode from IN differ only at the end of the stream. -/
theorem step_fetching (hturn : framersTurn s) (hrun : runningIn .transform s ∨ runningIn .decode s) :
    ∃ atEnd, step s = fetchStep atEnd (afterTurn s) := by
  rw [step_framersTurn hturn]
  exact hrun.elim (fun h => ⟨_, framerStep_transform h⟩) fun h => ⟨_, framerStep_decode h⟩

/-- DECODE_AT does not look at the schedule. -/
theorem fetch_afterTurn (s : State) : fetch (afterTurn s) = fetch s := rfl

/-- The first clause of O19: the reads give a whole packet, so DECODE_AT finds its opcode word and payload section. -/
theorem step_packetRead {n : Nat} {i : Instr} (hturn : framersTurn s)
    (hrun : runningIn .transform s ∨ runningIn .decode s) (hfit : s.inOffset.toNat + 8 + n ≤ s.inLen.toNat)
    (hdecode : decode (.stream (packetRead n s)) = .ok i []) :
    step s = exec i (afterTurn (afterReads (packetAddrs n s) s)) := by
  obtain ⟨opcode, body, _, hread, rfl⟩ := decodeStream_ok (bytes := packetRead n s) hdecode
  rw [List.append_nil] at hread
  have hlen : n = body.length := by
    have := congrArg List.length hread
    rw [packetRead_length, List.length_append, headerBytes_length] at this
    omega
  subst hlen
  obtain ⟨atEnd, e⟩ := step_fetching hturn hrun
  rw [e, fetchStep, fetch_afterTurn, fetch_packet hfit hread]
  rfl

/-- The second clause of O19: loaded bytes read as loaded, so the reads give the encoding, which decodes to the
instruction. -/
theorem step_loadedPacket {i : Instr} {bytes : List Byte} (hturn : framersTurn s)
    (hrun : runningIn .transform s ∨ runningIn .decode s) (hwf : WellFormed i = true) (hencode : encode i = .stream bytes)
    (hfit : s.inOffset.toNat + bytes.length ≤ s.inLen.toNat) (hholds : inHolds s s.inOffset.toNat bytes) :
    step s = exec i (afterTurn s) := by
  have hdecode := decode_encode_append hwf hencode []
  obtain ⟨c, _, _, rfl⟩ := packet_of_encode hwf hencode
  rw [List.append_nil] at hdecode
  rw [packetBytes_length, ← Nat.add_assoc] at hfit
  rw [packetBytes, headerBytes, List.append_assoc] at hholds
  obtain ⟨hread, hafter⟩ := packetRead_loaded (bytes32_length _) (bytes32_length _) hholds
  rw [← List.append_assoc] at hread
  have hbody : (payloadBytes c.payload ++ c.extra).length = payloadSize c := by
    rw [List.length_append, payloadBytes_length, payloadSize]
  rw [hbody] at hread hafter
  have hstep := step_packetRead hturn hrun hfit (by rw [hread]; exact hdecode)
  rwa [hafter] at hstep

theorem encodeStep_record {c : Command} (h : s.cmdIn[s.cmdCount.toNat]? = some c) :
    encodeStep s = exec (instrOfCommand c) s := by
  have hlt : s.cmdCount.toNat < s.cmdIn.length := (List.getElem?_eq_some_iff.mp h).1
  rw [encodeStep, if_neg (Nat.ne_of_lt hlt), h]

theorem step_record {c : Command} (hturn : framersTurn s) (hrun : runningIn .encode s)
    (hrecord : s.cmdIn[s.cmdCount.toNat]? = some c) : step s = exec (instrOfCommand c) (afterTurn s) := by
  rw [step_framersTurn hturn, framerStep_encode (s := afterTurn s) hrun]
  exact encodeStep_record (s := afterTurn s) hrecord

end Steps

/-- Settles O19: one clause for what is decoded from IN, loaded or drawn, one for a record and one for a CTRL write. -/
theorem stepRunsDecodedInstruction : Obligations.StepRunsDecodedInstruction := by
  refine ⟨fun n i s => step_packetRead, fun i bytes s => step_loadedPacket, fun c s => step_record, fun v rest s hs => ?_⟩
  rw [step_host hs]
  rfl

/-- Settles O20: DECODE_AT finds a header cut short. -/
theorem truncatedHeaderError : Obligations.TruncatedHeaderError := by
  intro s hturn hrun hstart hshort
  obtain ⟨atEnd, e⟩ := step_fetching hturn hrun
  rw [e, fetchStep, fetch_afterTurn, fetch_truncatedHeader hstart hshort]
  rfl

/-- Settles O21: the size word that the four reads give is above what is left. -/
theorem truncatedPayloadError : Obligations.TruncatedPayloadError := by
  intro b4 b5 b6 b7 s hturn hrun hheader hsize hshort
  rw [← be32_toNat] at hshort
  rw [← bytes32_be32] at hsize
  obtain ⟨atEnd, e⟩ := step_fetching hturn hrun
  rw [e, fetchStep, fetch_afterTurn, fetch_truncatedPayload hheader hsize hshort]
  rfl

/-- Settles O22: in each mode the step is the end of its input. -/
theorem endOfInputIsDone : Obligations.EndOfInputIsDone := by
  intro s hturn hend
  rw [step_framersTurn hturn]
  rcases hend with ⟨hrun, htrailer, hin⟩ | ⟨hrun, hin⟩ | ⟨hrun, hcount⟩
  · have hnone : trailerConfigured (afterTurn s) = false := htrailer
    rw [framerStep_transform (s := afterTurn s) hrun, fetchStep, fetch_afterTurn, fetch_endOfStream hin]
    dsimp only
    rw [transformEnd, hnone]
    rfl
  · rw [framerStep_decode (s := afterTurn s) hrun, fetchStep, fetch_afterTurn, fetch_endOfStream hin]
    rfl
  · rw [framerStep_encode (s := afterTurn s) hrun, encodeStep]
    exact if_pos hcount

end Sys2Proof.Machine

namespace Sys2Proof.Machine

/-! ### Another IN (R60, R101, R105)

Every part of a FRAMER step but DECODE_AT carries IN along unread, so it commutes with putting another IN in its place;
DECODE_AT reads below IN_LEN only. -/

/-- The state with another IN. -/
def withIn (m : Memory) (s : State) : State :=
  { s with inMem := m }

/-- A part of a step with another IN in the state it leaves. -/
def Flow.withIn {α : Type} (m : Memory) : Flow α → Flow α
  | .go a s => .go a (Machine.withIn m s)
  | .stop s => .stop (Machine.withIn m s)

/-- An outcome with another IN in the next state, if there is one. -/
def outcomeWithIn (m : Memory) : Host.Outcome State Fault Refusal → Host.Outcome State Fault Refusal
  | .next s => .next (withIn m s)
  | .fault e => .fault e
  | .refused r => .refused r

section WithIn

variable {m : Memory} {s : State}

@[simp] theorem withIn_phase (m : Memory) (s : State) : (withIn m s).phase = s.phase := rfl
@[simp] theorem withIn_mode (m : Memory) (s : State) : (withIn m s).mode = s.mode := rfl
@[simp] theorem withIn_inLen (m : Memory) (s : State) : (withIn m s).inLen = s.inLen := rfl
@[simp] theorem withIn_lastFrame (m : Memory) (s : State) : (withIn m s).lastFrame = s.lastFrame := rfl
@[simp] theorem withIn_cmdCount (m : Memory) (s : State) : (withIn m s).cmdCount = s.cmdCount := rfl
@[simp] theorem withIn_cmdIn (m : Memory) (s : State) : (withIn m s).cmdIn = s.cmdIn := rfl
@[simp] theorem withIn_policyInForce (m : Memory) (s : State) : policyInForce (withIn m s) = policyInForce s := rfl
@[simp] theorem withIn_fillerCount (m : Memory) (s : State) : fillerCount (withIn m s) = fillerCount s := rfl

theorem flow_withIn_state {α : Type} (r : Flow α) : (r.withIn m).state = withIn m r.state := by
  cases r <;> rfl

theorem emit_withIn (c : Command) (o : Word) (s : State) : emit c o (withIn m s) = (emit c o s).withIn m := by
  rw [emit, emit, withIn_policyInForce]
  cases encodeCommand (policyInForce s) c with
  | error e => rfl
  | ok bytes =>
    dsimp only
    rw [writePacket, writePacket, apply_ite (Flow.withIn m)]
    rfl

theorem emitFillers_withIn (o : Word) (n f : Nat) (s : State) :
    emitFillers o n f (withIn m s) = (emitFillers o n f s).withIn m := by
  induction n generalizing f s with
  | zero => rfl
  | succ n ih =>
    rw [emitFillers, emitFillers, emit_withIn, apply_ite (Flow.withIn m)]
    cases emit (filler (BitVec.ofNat 32 f)) o s with
    | stop t => rfl
    | go a t => exact congrArg _ (ih (f + 1) t)

theorem adjust_withIn (c : Command) (o : Word) (s : State) : adjust c o (withIn m s) = (adjust c o s).withIn m := by
  rw [adjust, adjust]
  cases c.payload with
  | nil => rfl
  | cons w ws =>
    dsimp only
    rw [apply_ite (Flow.withIn m), apply_ite (Flow.withIn m)]
    rfl

theorem gateAndEmit_withIn (c : Command) (o : Word) (s : State) :
    gateAndEmit c o (withIn m s) = (gateAndEmit c o s).withIn m := by
  have hpass : passGate c (withIn m s) = (passGate c s).withIn m := by
    rw [passGate, passGate, apply_ite (Flow.withIn m), apply_ite (Flow.withIn m)]
    rfl
  rw [gateAndEmit, gateAndEmit, hpass]
  cases passGate c s with
  | stop t => rfl
  | go a t => exact emit_withIn c o t

theorem handleReset_withIn (f o : Word) (s : State) : handleReset f o (withIn m s) = withIn m (handleReset f o s) := by
  have hfillers := emitFillers_withIn (m := m) o (fillerCount s) f.toNat s
  rw [handleReset, handleReset, apply_ite (withIn m)]
  rw [withIn_fillerCount, hfillers]
  cases emitFillers o (fillerCount s) f.toNat s <;> rfl

theorem transformPlain_withIn (c : Command) (o : Word) (s : State) :
    transformPlain c o (withIn m s) = withIn m (transformPlain c o s) := by
  rw [transformPlain, gateAndEmit_withIn, flow_withIn_state]
  rfl

theorem transformFrame_withIn (c : Command) (o : Word) (s : State) :
    transformFrame c o (withIn m s) = withIn m (transformFrame c o s) := by
  rw [transformFrame, transformFrame, adjust_withIn]
  cases adjust c o s with
  | stop t => rfl
  | go d t => exact (congrArg Flow.state (gateAndEmit_withIn d o t)).trans (flow_withIn_state _)

theorem transformReset_withIn (c : Command) (o : Word) (s : State) :
    transformReset c o (withIn m s) = withIn m (transformReset c o s) := by
  rw [transformReset, transformReset, adjust_withIn]
  cases adjust c o s with
  | stop t => rfl
  | go d t =>
    dsimp only [Flow.withIn]
    rw [gateAndEmit_withIn]
    cases gateAndEmit d o t with
    | stop u => rfl
    | go a u =>
      dsimp only [Flow.withIn]
      cases d.payload with
      | nil => rfl
      | cons f fs => exact handleReset_withIn f o u

theorem transformOf_withIn (op : Word) (c : Command) (o : Word) (s : State) :
    transformOf op c o (withIn m s) = withIn m (transformOf op c o s) := by
  unfold transformOf
  split
  · exact transformReset_withIn c o s
  · split
    · exact transformFrame_withIn c o s
    · exact transformPlain_withIn c o s

theorem transformEnd_withIn (s : State) : transformEnd (withIn m s) = withIn m (transformEnd s) := by
  have hfillers := emitFillers_withIn (m := m) s.inLen trailerCount (s.lastFrame.toNat + 1) s
  rw [transformEnd, transformEnd, apply_ite (withIn m)]
  rw [withIn_inLen, withIn_lastFrame, hfillers]
  cases emitFillers s.inLen trailerCount (s.lastFrame.toNat + 1) s <;> rfl

theorem encodeRecord_withIn (c : Command) (s : State) : encodeRecord c (withIn m s) = withIn m (encodeRecord c s) := by
  rw [encodeRecord, encodeRecord, emit_withIn]
  rw [withIn_cmdCount]
  cases emit c s.cmdCount s <;> rfl

/-- The instruction of a record commutes with another IN. -/
theorem exec_withIn (c : Command) (s : State) :
    exec (instrOfCommand c) (withIn m s) = outcomeWithIn m (exec (instrOfCommand c) s) := by
  rw [exec_instrOfCommand, exec_instrOfCommand, runCommand, runCommand]
  rw [withIn_phase, withIn_mode]
  cases s.phase with
  | running =>
    cases s.mode with
    | none => rfl
    | transform => exact congrArg _ (transformOf_withIn c.opcode c s.inOffset (advance c s))
    | encode => exact congrArg _ (encodeRecord_withIn c s)
    | decode => rfl
  | _ => rfl

/-! DECODE_AT, which does read IN. -/

theorem readByte_congr {m' : Memory} {a : Nat} (h : Memory.read m a = Memory.read m' a) (draws : Nat) :
    readByte m a draws = readByte m' a draws := by
  rw [readByte, readByte, h]

theorem readBytes_congr {m' : Memory} {a n : Nat} (h : ∀ k, k < n → Memory.read m (a + k) = Memory.read m' (a + k))
    (draws : Nat) : readBytes m a n draws = readBytes m' a n draws := by
  induction n generalizing a draws with
  | zero => rfl
  | succ n ih =>
    have htail := fun d => ih (a := a + 1) (fun k hk => by
      rw [Nat.add_assoc, Nat.add_comm 1 k]; exact h (k + 1) (Nat.succ_lt_succ hk)) d
    rw [readBytes, readBytes, readByte_congr (a := a) (h 0 (Nat.succ_pos n))]
    simp only [htail]

theorem readWord_congr {m' : Memory} {a : Nat} (h : ∀ k, k < 4 → Memory.read m (a + k) = Memory.read m' (a + k))
    (draws : Nat) : readWord m a draws = readWord m' a draws := by
  simp only [readWord, readByte_congr (a := a) (h 0 (by decide)), readByte_congr (h 1 (by decide)),
    readByte_congr (h 2 (by decide)), readByte_congr (h 3 (by decide))]

/-- DECODE_AT finds the same in memories that agree below IN_LEN (R101, R105). -/
theorem fetch_withIn (h : ∀ a, a < s.inLen.toNat → Memory.read m a = Memory.read s.inMem a) :
    fetch (withIn m s) = fetch s := by
  unfold fetch
  dsimp only [withIn]
  by_cases hend : s.inLen.toNat ≤ s.inOffset.toNat
  · rw [if_pos hend, if_pos hend]
  rw [if_neg hend, if_neg hend]
  by_cases hshort : s.inLen.toNat - s.inOffset.toNat < 8
  · rw [if_pos hshort, if_pos hshort]
  rw [if_neg hshort, if_neg hshort, readWord_congr (a := s.inOffset.toNat + 4) fun k hk => h _ (by omega)]
  cases readWord s.inMem (s.inOffset.toNat + 4) s.draws with
  | mk size draws =>
    dsimp only
    by_cases hpayload : s.inLen.toNat - s.inOffset.toNat - 8 < size.toNat
    · rw [if_pos hpayload, if_pos hpayload]
    rw [if_neg hpayload, if_neg hpayload, readWord_congr (a := s.inOffset.toNat) fun k hk => h _ (by omega)]
    cases readWord s.inMem s.inOffset.toNat draws with
    | mk opcode draws =>
      dsimp only
      rw [readBytes_congr (a := s.inOffset.toNat + 8) fun k hk => h _ (by omega)]

theorem fetchStep_withIn {atEnd : State → State} (hend : atEnd (withIn m s) = withIn m (atEnd s))
    (h : ∀ a, a < s.inLen.toNat → Memory.read m a = Memory.read s.inMem a) :
    fetchStep atEnd (withIn m s) = outcomeWithIn m (fetchStep atEnd s) := by
  rw [fetchStep, fetchStep, fetch_withIn h]
  cases fetch s with
  | endOfStream => exact congrArg _ hend
  | truncatedHeader => rfl
  | truncatedPayload draws => rfl
  | packet opcode body draws => exact exec_withIn _ (setDraws draws s)

theorem encodeStep_withIn (s : State) : encodeStep (withIn m s) = outcomeWithIn m (encodeStep s) := by
  rw [encodeStep, encodeStep, apply_ite (outcomeWithIn m)]
  rw [withIn_cmdIn, withIn_cmdCount]
  cases s.cmdIn[s.cmdCount.toNat]? with
  | none => rfl
  | some c =>
    dsimp only
    rw [exec_withIn]
    rfl

/-- The FRAMER's step answers the same, but for IN, in memories that agree below IN_LEN. -/
theorem framerStep_withIn (h : ∀ a, a < s.inLen.toNat → Memory.read m a = Memory.read s.inMem a) :
    framerStep (withIn m s) = outcomeWithIn m (framerStep s) := by
  rw [framerStep, framerStep]
  rw [withIn_phase, withIn_mode]
  cases s.phase with
  | running =>
    cases s.mode with
    | none => rfl
    | transform => exact fetchStep_withIn (transformEnd_withIn s) h
    | encode => exact encodeStep_withIn s
    | decode => exact fetchStep_withIn rfl h
  | _ => rfl

end WithIn

/-- Settles O40: the turn is the FRAMER's with either IN, and its step commutes with the exchange. -/
theorem fetchStaysBelowInLen : Obligations.FetchStaysBelowInLen := by
  intro m s hturn hagree
  have hstep : step (withIn m s) = outcomeWithIn m (step s) := by
    rw [step_framersTurn hturn, step_framersTurn (s := withIn m s) hturn]
    exact framerStep_withIn (s := afterTurn s) hagree
  refine ⟨fun t ht => ?_, fun e he => ?_⟩
  · rw [ht] at hstep; exact hstep
  · rw [he] at hstep; exact hstep

end Sys2Proof.Machine

namespace Sys2Proof.Machine

section KeptCommands

variable {s : State} {op : Word} {p ws : List Word} {x : List Byte} {w f o : Word}

/-! ### Commands that complete (R120 to R128, R158) -/

/-- ENCODE and WRITE_PACKET both succeed: the packet is sent whole (R106, R107, R108). -/
theorem emit_wireBytes (o : Word) (hwf : wellFormedCommand ⟨op, p, x⟩ = true) (hx : encodable s x)
    (hfit : fits (wireBytes (policyInForce s) op p x) s) :
    emit ⟨op, p, x⟩ o s = .go () (sent (wireBytes (policyInForce s) op p x) s) :=
  emit_fits o (encodeCommand_wireBytes hwf hx) hfit

/-- A kept RESET whose packet is sent comes to step 4 (R126, R159). -/
theorem exec_reset_sent (hwf : WellFormed (.reset (w :: ws) x) = true) (hrun : runningIn .transform s)
    (hadj : adjustsTo s w f.toNat) (hfloor : s.floor.toNat ≤ f.toNat) (hx : encodable s x)
    (hfit : fits (wireBytes (policyInForce s) 0x46 (f :: ws) x) s) :
    exec (.reset (w :: ws) x) s = .next (handleReset f s.inOffset
      (sent (wireBytes (policyInForce s) 0x46 (f :: ws) x) (resetReady f ws x s))) :=
  exec_reset_go hrun hadj hfloor
    (emit_wireBytes (s := resetReady f ws x s) s.inOffset (wellFormedCommand_word_zero f hwf) hx hfit)

/-! ### Step 4 (R159 to R162) -/

/-- D = 0 exactly where CFG_DELAY holds the word 0 (R27). -/
theorem delayPerReset_eq_zero_iff (s : State) : delayPerReset s = 0 ↔ s.cfgDelay = 0 := by
  rw [delayPerReset, ← BitVec.toInt_inj]
  rfl

/-- With D = 0 there is no step 4 (R159). -/
theorem handleReset_of_cfgDelay_zero (hdelay : s.cfgDelay = 0) : handleReset f o s = s :=
  if_pos ((delayPerReset_eq_zero_iff s).mpr hdelay)

/-- Step 4 with D ≠ 0 whose fillers have u32 frames and all fit: they are emitted, then DELAY and FLOOR are written
(R160, R161, R162). -/
theorem handleReset_all (hdelay : s.cfgDelay ≠ 0) (hframe : f.toNat + fillerCount s ≤ 2 ^ 32)
    (hfit : s.outLen.toNat + 28 * fillerCount s ≤ s.outCap.toNat) :
    handleReset f o s = growDelay f (appendOut (fillerBytes f.toNat (fillerCount s)) s) := by
  rw [handleReset, if_neg (mt (delayPerReset_eq_zero_iff s).mp hdelay), emitFillers_all o _ _ s hfit hframe]

end KeptCommands

/-- Settles O1: the command comes to its emission, which sends its packet. -/
theorem frameCommandEmitted : Obligations.FrameCommandEmitted := by
  intro w ws x i op f s h hwf hrun hadj hfloor hgate hx hfit
  have hsent := emit_wireBytes (s := framed f ws x s) s.inOffset
    (wellFormedCommand_word_zero f (wellFormedCommand_frameForm h hwf)) hx hfit
  rw [exec_frame_kept h hrun hadj hfloor hgate, hsent]
  rfl

/-- Settles O2: the command comes to its emission as decoded, which sends its packet. -/
theorem plainCommandEmitted : Obligations.PlainCommandEmitted := by
  intro n p x i op s h hwf hrun hgate hx hfit
  have hsent := emit_wireBytes (s := pastPacket (8 + 4 * p.length + x.length) s) s.inOffset
    (wellFormedCommand_plainForm h hwf) hx hfit
  rw [exec_plain_kept h hrun hgate, hsent]
  rfl

/-- Settles O3: the RESET is emitted, and step 4 does nothing. -/
theorem resetEmittedWithoutDelay : Obligations.ResetEmittedWithoutDelay := by
  intro w ws x f s hwf hrun hdelay hadj hfloor hx hfit
  rw [exec_reset_sent hwf hrun hadj hfloor hx hfit]
  exact congrArg _ (handleReset_of_cfgDelay_zero hdelay)

/-- Settles O4: the RESET is emitted, and then every filler of step 4; the two appends to OUT are one. -/
theorem resetEmittedWithFillers : Obligations.ResetEmittedWithFillers := by
  intro w ws x f s hwf hrun hdelay hadj hfloor hx hframe hfit
  rw [fillersFrom_eq] at hfit ⊢
  have hroom : s.outLen.toNat + (wireBytes (policyInForce s) 0x46 (f :: ws) x).length +
      28 * s.cfgDelay.toInt.toNat ≤ s.outCap.toNat := by
    rwa [fits, List.length_append, fillerBytes_length, ← Nat.add_assoc] at hfit
  have hpacket : fits (wireBytes (policyInForce s) 0x46 (f :: ws) x) s := (Nat.le_add_right _ _).trans hroom
  rw [exec_reset_sent hwf hrun hadj hfloor hx hpacket]
  generalize wireBytes (policyInForce s) 0x46 (f :: ws) x = packet at *
  have hlen : (appendOut packet (resetReady f ws x s)).outLen.toNat = s.outLen.toNat + packet.length :=
    appendOut_outLen_toNat hpacket
  have hstep4 : handleReset f s.inOffset (appendOut packet (resetReady f ws x s)) = _ :=
    handleReset_all hdelay hframe (by rw [hlen]; exact hroom)
  rw [appendOut_appendOut] at hstep4
  exact congrArg _ hstep4

end Sys2Proof.Machine

/-! ## The transform (spec/42_transform.md)

First the commands that steps 1 and 2 do not let through; then fillers that would pass frame 2^32 - 1, after a RESET and
in the trailer; then the closed gate over a whole step; last, the runs: that they end, and the identity. -/

namespace Sys2Proof.Machine

section StoppedCommands

variable {s t : State} {c : Command} {i : Instr} {op w : Word} {p ws : List Word} {x : List Byte}

/-! ### Step 1 stops a frame-bearing command (R153, R155) -/

theorem adjust_no_word (op : Word) (x : List Byte) (o : Word) (s : State) :
    adjust ⟨op, [], x⟩ o s = .stop (failed .noFrameWord o s) := rfl

theorem adjust_below_floor (o : Word) (h : (w.toNat : Int) + s.delay.toInt < s.floor.toNat) :
    adjust ⟨op, w :: ws, x⟩ o s = .stop s := if_pos h

theorem adjust_past_u32 (o : Word) (h : 2 ^ 32 - 1 < (w.toNat : Int) + s.delay.toInt) :
    adjust ⟨op, w :: ws, x⟩ o s = .stop (failed .frameRange o s) := by
  have hfloor : ¬ adjustedFrame w s.delay < s.floor.toNat := by
    have := s.floor.isLt
    rw [adjustedFrame]
    omega
  have hrange : 2 ^ 32 - 1 < adjustedFrame w s.delay := h
  simp only [adjust, if_neg hfloor, if_pos hrange]
  rfl

/-- Where step 1 stops one of the seven frame-bearing commands, nothing comes after it (R153, R156). -/
theorem exec_adjust_stop (h : (i, op) ∈ (Instr.reset p x, 0x46) :: frameForms p x) (hrun : runningIn .transform s)
    (hstop : adjust ⟨op, p, x⟩ s.inOffset (pastPacket (8 + 4 * p.length + x.length) s) = .stop t) :
    exec i s = .next t := by
  rcases List.mem_cons.mp h with hreset | hframe
  · cases hreset
    have hstop : adjust ⟨opReset, p, x⟩ s.inOffset (pastPacket (8 + 4 * p.length + x.length) s) = .stop t := hstop
    rw [exec, execReset, runCommand_transform _ _ _ _ hrun, transformReset, hstop]
  · rw [exec_frameForm hframe, runCommand_transform _ _ _ _ hrun, transformFrame, hstop]

/-! ### The closed gate stops every command but RESET (R157) -/

theorem gateAndEmit_closed (o : Word) (hclosed : gateClosed s = true) (hc : c.opcode ≠ opReset) :
    gateAndEmit c o s = .stop s := by
  rw [gateAndEmit, passGate, if_pos hclosed, if_neg hc]

theorem gateClosed_of_fields (hgate : s.cfgFlags.getLsbD 0 = true) (hopen : s.gateOpen = false) :
    gateClosed s = true := by
  rw [gateClosed, gateConfigured, hgate, hopen]
  rfl

theorem frameForm_ne_opReset (h : (i, op) ∈ frameForms p x) : op ≠ opReset := by
  simp only [frameForms, List.mem_cons, Prod.mk.injEq, List.not_mem_nil, or_false] at h
  rcases h with ⟨_, rfl⟩ | ⟨_, rfl⟩ | ⟨_, rfl⟩ | ⟨_, rfl⟩ | ⟨_, rfl⟩ | ⟨_, rfl⟩ <;> decide

/-- A well-formed UNKNOWN is no RESET (R85, R128). -/
theorem plainForm_ne_opReset {n : Word} (h : (i, op) ∈ plainForms n p x) (hwf : WellFormed i = true) : op ≠ opReset := by
  simp only [plainForms, List.mem_cons, Prod.mk.injEq, List.not_mem_nil, or_false] at h
  rcases h with ⟨_, rfl⟩ | ⟨rfl, rfl⟩
  · decide
  · rintro rfl
    have hknown : isUnknownOpcode opReset = false := by decide
    rw [WellFormed, hknown] at hwf
    cases hwf

end StoppedCommands

/-- Settles O7: step 1 discards the command. -/
theorem floorDiscards : Obligations.FloorDiscards :=
  fun _ _ _ _ _ _ h hrun hlow => exec_adjust_stop h hrun (adjust_below_floor _ hlow)

/-- Settles O8: step 1 finds no frame word. -/
theorem noFrameWordError : Obligations.NoFrameWordError :=
  fun _ _ _ _ h hrun => exec_adjust_stop h hrun (adjust_no_word _ _ _ _)

/-- Settles O9: step 1 finds the frame out of range; it is not below FLOOR, a u32. -/
theorem frameRangeError : Obligations.FrameRangeError :=
  fun _ _ _ _ _ _ h hrun hhigh => exec_adjust_stop h hrun (adjust_past_u32 _ hhigh)

/-- Settles O10: the command comes to the gate, a frame-bearing one with LAST_FRAME written, and stops there. -/
theorem closedGateDiscards : Obligations.ClosedGateDiscards := by
  intro n w f p ws x i op s hrun hgate hopen
  have closed : ∀ t : State, t.cfgFlags = s.cfgFlags → t.gateOpen = s.gateOpen → gateClosed t = true := fun t hf ho =>
    gateClosed_of_fields (by rw [hf, hgate]) (by rw [ho, hopen])
  refine ⟨fun h hadj hfloor => ?_, fun h hwf => ?_⟩
  · rw [exec_frameForm h, runCommand_transform _ _ _ _ hrun, transformFrame, adjust_framed _ hadj hfloor]
    dsimp only
    rw [gateAndEmit_closed _ (closed (framed f ws x s) rfl rfl) (frameForm_ne_opReset h)]
    rfl
  · rw [exec_plainForm h, runCommand_transform _ _ _ _ hrun, transformPlain,
      gateAndEmit_closed _ (closed (pastPacket _ s) rfl rfl) (plainForm_ne_opReset h hwf)]
    rfl

end Sys2Proof.Machine

namespace Sys2Proof.Machine

section FillerRange

variable {s t : State} {m n f : Nat} {info : Word}

/-! ### Fillers that would pass frame 2^32 - 1 (R160, R165) -/

/-- Fillers of which the first `m` end at frame 2^32 - 1 and fit: those stand, and E_FRAME_RANGE is entered. -/
theorem emitFillers_stop_range (info : Word) (hm : m < n) (hf : f + m = 2 ^ 32)
    (hfit : s.outLen.toNat + 28 * m ≤ s.outCap.toNat) :
    emitFillers info n f s = .stop (failed .frameRange info (appendOut (fillerBytes f m) s)) := by
  obtain ⟨k, rfl⟩ := Nat.exists_eq_add_of_lt hm
  rw [Nat.add_assoc, emitFillers_add (emitFillers_all info m f s hfit hf.le), emitFillers, if_pos (by omega)]
  rfl

/-- Step 4 of a RESET whose fillers would pass frame 2^32 - 1: DELAY and FLOOR are not updated (R160, R161). -/
theorem handleReset_stop_range {f o : Word} (hm : m < fillerCount s) (hf : f.toNat + m = 2 ^ 32)
    (hfit : s.outLen.toNat + 28 * m ≤ s.outCap.toNat) :
    handleReset f o s = failed .frameRange o (appendOut (fillerBytes f.toNat m) s) := by
  have hdelay : delayPerReset s ≠ 0 := fun h => by simp [fillerCount, h] at hm
  rw [handleReset, if_neg hdelay, emitFillers_stop_range o hm hf hfit]

/-! ### The end of the stream with a trailer (R165) -/

theorem step_endOfStream (hturn : framersTurn s) (hrun : runningIn .transform s)
    (hin : s.inLen.toNat ≤ s.inOffset.toNat) : step s = .next (transformEnd (afterTurn s)) := by
  rw [step_framersTurn hturn, framerStep_transform (s := afterTurn s) hrun, fetchStep, fetch_afterTurn,
    fetch_endOfStream hin]

theorem transformEnd_trailer_go (htrailer : s.cfgFlags.getLsbD 1 = true)
    (h : emitFillers s.inLen trailerCount (s.lastFrame.toNat + 1) s = .go () t) : transformEnd s = finishRun t := by
  rw [transformEnd, trailerConfigured, if_pos htrailer, h]

theorem transformEnd_trailer_stop (htrailer : s.cfgFlags.getLsbD 1 = true)
    (h : emitFillers s.inLen trailerCount (s.lastFrame.toNat + 1) s = .stop t) : transformEnd s = t := by
  rw [transformEnd, trailerConfigured, if_pos htrailer, h]

end FillerRange

/-- Settles O5: the RESET is emitted, and step 4 stops before the filler with frame 2^32. -/
theorem fillerRangeError : Obligations.FillerRangeError := by
  intro w ws x f s hwf hrun hadj hfloor hx hframe hfit
  rw [fillersFrom_eq] at hfit ⊢
  have hf := f.isLt
  have hroom : s.outLen.toNat + (wireBytes (policyInForce s) 0x46 (f :: ws) x).length + 28 * (2 ^ 32 - f.toNat) ≤
      s.outCap.toNat := by
    rwa [fits, List.length_append, fillerBytes_length, ← Nat.add_assoc] at hfit
  have hpacket : fits (wireBytes (policyInForce s) 0x46 (f :: ws) x) s := (Nat.le_add_right _ _).trans hroom
  rw [exec_reset_sent hwf hrun hadj hfloor hx hpacket]
  generalize wireBytes (policyInForce s) 0x46 (f :: ws) x = packet at *
  have hlen : (appendOut packet (resetReady f ws x s)).outLen.toNat = s.outLen.toNat + packet.length :=
    appendOut_outLen_toNat hpacket
  have hcount : 2 ^ 32 - f.toNat < s.cfgDelay.toInt.toNat := by omega
  have hstop : handleReset f s.inOffset (appendOut packet (resetReady f ws x s)) = _ :=
    handleReset_stop_range hcount (by omega) (by rw [hlen]; exact hroom)
  rw [appendOut_appendOut] at hstop
  exact congrArg _ hstop

/-- Settles O23: all sixty fillers have u32 frames and fit. -/
theorem trailerAppended : Obligations.TrailerAppended := by
  intro s hturn hrun htrailer hin hframe hfit
  have hlast : s.lastFrame.toNat + 1 + 60 ≤ 2 ^ 32 := by omega
  rw [step_endOfStream hturn hrun hin, fillersFrom_eq]
  exact congrArg _ (transformEnd_trailer_go htrailer (emitFillers_all s.inLen 60 _ (afterTurn s) hfit hlast))

/-- Settles O24: the trailer stops before the filler with frame 2^32. -/
theorem trailerRangeError : Obligations.TrailerRangeError := by
  intro s hturn hrun htrailer hin hframe hfit
  have hlast := s.lastFrame.isLt
  have hcount : 2 ^ 32 - 1 - s.lastFrame.toNat < trailerCount := by rw [trailerCount]; omega
  have hend : s.lastFrame.toNat + 1 + (2 ^ 32 - 1 - s.lastFrame.toNat) = 2 ^ 32 := by omega
  rw [step_endOfStream hturn hrun hin, fillersFrom_eq]
  exact congrArg _ (transformEnd_trailer_stop htrailer
    (emitFillers_stop_range (s := afterTurn s) s.inLen hcount hend hfit))

/-- Settles O25: the trailer stops at filler `m + 1`, which has a u32 frame and does not fit. -/
theorem trailerOverflowError : Obligations.TrailerOverflowError := by
  intro m s hturn hrun htrailer hin hm hframe hfit hfull
  rw [step_endOfStream hturn hrun hin, fillersFrom_eq]
  exact congrArg _ (transformEnd_trailer_stop htrailer (emitFillers_stop_full (s := afterTurn s) hm hframe hfit hfull))

end Sys2Proof.Machine

namespace Sys2Proof.Machine

section ClosedGate

variable {s t : State} {c : Command} {o : Word}

/-! ### The closed gate over a whole step (R157, R170) -/

/-- The end of the stream ends the run, whatever the trailer does (R165). -/
theorem transformEnd_phase_ne_running (s : State) : (transformEnd s).phase ≠ .running := by
  rcases transformEnd_cases s with ⟨_, h⟩ | ⟨_, h⟩ | ⟨_, _, _, _, _, h⟩ <;> simp [h]

/-- What TRANSFORM_STEP can come to where the gate is closed: an error, the gate open, or nothing but LAST_FRAME written. -/
def HeldAtGate (s t : State) : Prop :=
  t.phase = .error ∨ t.gateOpen = true ∨ ∃ f, t = setLastFrame f s

/-- Past a closed gate a RESET leaves it open, however its step ends (R126, R157). -/
theorem transformReset_held (hclosed : gateClosed s = true) (hc : c.opcode = opReset) :
    HeldAtGate s (transformReset c o s) := by
  unfold transformReset
  rcases adjust_cases c o s with ⟨_, h⟩ | ⟨_, _, _, _, h⟩ | ⟨_, _, _, _, _, h⟩ | ⟨w, ws, f, _, _, _, h⟩ <;> rw [h]
  · exact .inl rfl
  · exact .inr (.inr ⟨s.lastFrame, rfl⟩)
  · exact .inl rfl
  · right; left
    have hopened : (gateAndEmit { c with payload := f :: ws } o (setLastFrame f s)).state.gateOpen = true := by
      have hclosed : gateClosed (setLastFrame f s) = true := hclosed
      rw [gateAndEmit, passGate, if_pos hclosed, if_pos hc]
      exact (KeepsInputs.emit _ o _).gateOpen rfl
    dsimp only
    cases e : gateAndEmit { c with payload := f :: ws } o (setLastFrame f s) with
    | stop u => rw [e] at hopened; exact hopened
    | go _ u => rw [e] at hopened; exact (KeepsInputs.handleReset f o u).gateOpen hopened

theorem transformFrame_held (hclosed : gateClosed s = true) (hc : c.opcode ≠ opReset) :
    HeldAtGate s (transformFrame c o s) := by
  unfold transformFrame
  rcases adjust_cases c o s with ⟨_, h⟩ | ⟨_, _, _, _, h⟩ | ⟨_, _, _, _, _, h⟩ | ⟨w, ws, f, _, _, _, h⟩ <;> rw [h]
  · exact .inl rfl
  · exact .inr (.inr ⟨s.lastFrame, rfl⟩)
  · exact .inl rfl
  · have hstop := gateAndEmit_closed (s := setLastFrame f s) (c := { c with payload := f :: ws }) o hclosed hc
    dsimp only
    rw [hstop]
    exact .inr (.inr ⟨f, rfl⟩)

theorem transformOf_held (hclosed : gateClosed s = true) : HeldAtGate s (transformOf c.opcode c o s) := by
  by_cases hc : c.opcode = opReset
  · rw [hc, transformOf_opReset]
    exact transformReset_held hclosed hc
  · rw [transformOf, if_neg hc]
    split
    · exact transformFrame_held hclosed hc
    · rw [transformPlain, gateAndEmit_closed o hclosed hc]
      exact .inr (.inr ⟨s.lastFrame, rfl⟩)

/-- Of the FRAMER's moves in a TRANSFORM run only one leaves it RUNNING, and that one is held at the closed gate. -/
theorem FramerMove.keeps_output (hmove : FramerMove s t) (hmode : s.mode = .transform) (hclosed : gateClosed s = true)
    (htopen : t.gateOpen = false) (htrun : t.phase = .running) :
    t.out = s.out ∧ t.outLen = s.outLen ∧ t.delay = s.delay ∧ t.floor = s.floor := by
  cases hmove with
  | rest hphase => exact absurd htrun hphase
  | truncated e draws _ _ _ => cases htrun
  | endTransform _ _ => exact absurd htrun (transformEnd_phase_ne_running s)
  | finish _ hne => exact absurd hmode hne
  | transform c draws _ _ _ =>
    have hclosed : gateClosed (advance c (setDraws draws s)) = true := hclosed
    rcases transformOf_held (c := c) (o := s.inOffset) hclosed with herror | hopened | ⟨f, hheld⟩
    · rw [herror] at htrun; cases htrun
    · rw [hopened] at htopen; cases htopen
    · rw [hheld]; exact ⟨rfl, rfl, rfl, rfl⟩
  | decode _ _ _ hdecode _ => rw [hmode] at hdecode; cases hdecode
  | encode _ _ hencode _ => rw [hmode] at hencode; cases hencode

end ClosedGate

/-- Settles O39: the step is a move of the FRAMER from the state without the turn. -/
theorem closedGateHoldsOutput : Obligations.ClosedGateHoldsOutput := by
  intro s t hturn hrun hgate hopen hstep htopen htrun
  rw [step_framersTurn hturn] at hstep
  exact (framerMove_of_framerStep hstep).keeps_output hrun.2 (gateClosed_of_fields (s := afterTurn s) hgate hopen)
    htopen htrun

end Sys2Proof.Machine

namespace Sys2Proof.Machine

section DecodingRun

variable {s t : State}

/-! ### A run that decodes from IN ends (R104, R172, R201) -/

/-- RUNNING in one of the two modes that decode from IN. -/
def Decoding (s : State) : Prop :=
  runningIn .transform s ∨ runningIn .decode s

theorem framersTurn_of_no_turns (hs : s.schedule = []) : framersTurn s := by
  simp [framersTurn, hs]

theorem afterTurn_of_no_turns (hs : s.schedule = []) : afterTurn s = s := by
  rw [afterTurn, hs, List.tail_nil, ← hs]

/-- A fetching step always answers a next state: errors are next states (R230). -/
theorem fetchStep_answers (atEnd : State → State) (hrun : Decoding s) : ∃ t, fetchStep atEnd s = .next t := by
  unfold fetchStep
  split
  case h_1 => exact ⟨_, rfl⟩
  case h_2 => exact ⟨_, rfl⟩
  case h_3 => exact ⟨_, rfl⟩
  case h_4 opcode body draws _ =>
    rw [decodePacket, exec_instrOfCommand]
    rcases hrun with ⟨hphase, hmode⟩ | ⟨hphase, hmode⟩ <;>
      exact ⟨_, by simp only [runCommand, setDraws_phase, setDraws_mode, hphase, hmode]; rfl⟩

/-- No part of TRANSFORM_STEP after DECODE_NEXT moves IN_OFFSET (R104). -/
theorem transformClosed_inOffset (v : Word) : TransformClosed fun s => s.inOffset = v where
  raise _ _ _ _ h := h
  appendOut _ _ _ h := h
  setLastFrame _ _ _ h := h
  openGate _ h := h
  growDelay _ h := h

/-- IN_OFFSET has moved past a packet, at least its 8 header bytes, that lies below IN_LEN (R104). -/
def PassedPacket (s t : State) : Prop :=
  s.inOffset.toNat + 8 ≤ t.inOffset.toNat ∧ t.inOffset.toNat ≤ s.inLen.toNat

theorem passedPacket_of_advance {c : Command} {draws : Nat}
    (hfit : s.inOffset.toNat + (8 + payloadSize c) ≤ s.inLen.toNat)
    (ht : t.inOffset = (advance c (setDraws draws s)).inOffset) : PassedPacket s t := by
  have hoffset := advance_inOffset_toNat (s := setDraws draws s) hfit
  rw [setDraws_inOffset] at hoffset
  rw [PassedPacket, ht, hoffset]
  exact ⟨by omega, hfit⟩

/-- A move of the FRAMER that leaves a run that decodes RUNNING has passed a packet. -/
theorem FramerMove.passedPacket (hmove : FramerMove s t) (hrun : Decoding s) (ht : t.phase = .running) :
    PassedPacket s t := by
  cases hmove with
  | rest hphase => exact absurd ht hphase
  | truncated e draws _ _ _ => cases ht
  | endTransform _ _ => exact absurd ht (transformEnd_phase_ne_running s)
  | finish _ _ => cases ht
  | transform c draws _ _ hfit =>
    exact passedPacket_of_advance hfit ((transformClosed_inOffset _).transformOf c.opcode c s.inOffset rfl)
  | decode c draws _ _ hfit => exact passedPacket_of_advance hfit rfl
  | encode c _ hencode _ =>
    rcases hrun with ⟨_, hmode⟩ | ⟨_, hmode⟩ <;> rw [hmode] at hencode <;> cases hencode

/-- The FRAMER leaves a RUNNING block RUNNING or ends its run (R25, R200). -/
theorem FramerMove.running_or_ended (hmove : FramerMove s t) (hrun : s.phase = .running) :
    t.phase = .running ∨ runEnded t = true := by
  have hne : t.phase ≠ .idle := by
    rcases hmove.phase with h | ⟨_, h⟩
    · rw [h, hrun]; simp
    · exact h
  cases h : t.phase with
  | idle => exact absurd h hne
  | running => exact .inl rfl
  | done => exact .inr (by simp [runEnded, h])
  | error => exact .inr (by simp [runEnded, h])

/-- A step of a run that decodes, with no host turns to come, ends it, or goes on with it past a packet. -/
theorem step_decoding (hs : s.schedule = []) (hrun : Decoding s) :
    ∃ t, step s = .next t ∧
      (runEnded t = true ∨ (t.schedule = [] ∧ Decoding t ∧ t.inLen = s.inLen ∧ PassedPacket s t)) := by
  have hturn := framersTurn_of_no_turns hs
  have hafter := afterTurn_of_no_turns hs
  obtain ⟨atEnd, hfetch⟩ := step_fetching hturn hrun
  obtain ⟨t, ht⟩ := fetchStep_answers atEnd hrun
  rw [hafter, ht] at hfetch
  have hframer : framerStep s = .next t := by rw [← hfetch, step_framersTurn hturn, hafter]
  have hmove := framerMove_of_framerStep hframer
  have keeps := KeepsInputs.framerStep hframer
  refine ⟨t, hfetch, ?_⟩
  rcases hmove.running_or_ended (hrun.elim And.left And.left) with hphase | hended
  · refine .inr ⟨keeps.schedule.trans hs, ?_, keeps.inLen, hmove.passedPacket hrun hphase⟩
    exact hrun.imp (fun h => ⟨hphase, keeps.mode.trans h.2⟩) fun h => ⟨hphase, keeps.mode.trans h.2⟩
  · exact .inl hended

/-- With room for fewer than `k` more headers in IN, a run that decodes ends within `k` steps. -/
theorem decoding_ends {k : Nat} (hs : s.schedule = []) (hrun : Decoding s)
    (hk : (s.inLen.toNat - s.inOffset.toNat) / 8 < k) :
    ∃ n t, n ≤ k ∧ Sys2Proof.core.run n s = .next t ∧ runEnded t = true := by
  induction k generalizing s with
  | zero => omega
  | succ k ih =>
    obtain ⟨t, hstep, hended | ⟨ht, htrun, hlen, hlow, hhigh⟩⟩ := step_decoding hs hrun
    · exact ⟨1, t, by omega, core_run_next hstep 0, hended⟩
    · obtain ⟨n, u, hn, hu, hended⟩ := ih ht htrun (by rw [hlen]; omega)
      exact ⟨n + 1, u, by omega, (core_run_next hstep n).trans hu, hended⟩

end DecodingRun

/-- Settles O55: each step that goes on uses up a header's 8 bytes of IN. -/
theorem decodingRunEnds : Obligations.DecodingRunEnds :=
  fun _ hs hrun => decoding_ends hs hrun (Nat.lt_succ_self _)

end Sys2Proof.Machine

namespace Sys2Proof.Machine

section Copying

variable {s : State} {c : Command} {cs : List Command} {bytes : List Byte} {o : Word}

/-! ### The identity (R167, R252): with D = 0, GATE = 0 and TRAILER = 0 each step copies one packet -/

theorem gateAndEmit_sent (o : Word) (hgate : gatePasses s) (hencode : encodeCommand (policyInForce s) c = .ok bytes)
    (hfit : fits bytes s) : gateAndEmit c o s = .go () (sent bytes s) := by
  rw [gateAndEmit, passGate_of_gatePasses c hgate]
  exact emit_fits o hencode hfit

/-- LAST_FRAME after a command that step 1 keeps with DELAY = 0 (R155, R163). -/
def frameAfter (f : Word) (c : Command) : Word :=
  if isFrameBearing c.opcode then c.payload.headD 0 else f

theorem lastFrameOf_eq (cs : List Command) : lastFrameOf cs = cs.foldl frameAfter 0 := rfl

/-- With DELAY, FLOOR and D all 0 and no gate, TRANSFORM_STEP emits the command as it is (R154, R155, R159, R163). -/
theorem transformOf_unchanged (hdelay : s.delay = 0) (hfloor : s.floor = 0) (hD : s.cfgDelay = 0) (hgate : gatePasses s)
    (hword : isFrameBearing c.opcode = true → c.payload ≠ [])
    (hencode : encodeCommand (policyInForce s) c = .ok bytes) (hfit : fits bytes s) :
    transformOf c.opcode c o s = sent bytes (setLastFrame (frameAfter s.lastFrame c) s) := by
  obtain ⟨op, p, x⟩ := c
  cases hop : isFrameBearing op with
  | false =>
    have hne : op ≠ opReset := by rintro rfl; cases hop
    rw [transformOf, if_neg hne, frameAfter, hop, if_neg Bool.false_ne_true, if_neg Bool.false_ne_true, transformPlain,
      gateAndEmit_sent o hgate hencode hfit]
    rfl
  | true =>
    obtain ⟨w, ws, rfl⟩ := List.exists_cons_of_ne_nil (hword hop)
    have hkept : adjust ⟨op, w :: ws, x⟩ o s = .go ⟨op, w :: ws, x⟩ (setLastFrame w s) :=
      adjust_kept o (by simp [adjustsTo, hdelay]) (by simp [hfloor])
    have hemit : gateAndEmit ⟨op, w :: ws, x⟩ o (setLastFrame w s) = .go () (sent bytes (setLastFrame w s)) :=
      gateAndEmit_sent o hgate hencode hfit
    have hframe : frameAfter s.lastFrame ⟨op, w :: ws, x⟩ = w := if_pos hop
    rw [hframe]
    by_cases hreset : op = opReset
    · subst hreset
      rw [transformOf_opReset, transformReset, hkept]
      dsimp only
      rw [hemit]
      exact handleReset_of_cfgDelay_zero hD
    · rw [transformOf, if_neg hreset, if_pos hop, transformFrame, hkept]
      dsimp only
      rw [hemit]
      rfl

/-- The state with the packets of `cs` copied from IN to OUT. -/
def copied (cs : List Command) (s : State) : State :=
  { s with
    inOffset  := s.inOffset + BitVec.ofNat 32 (cs.flatMap packetBytes).length
    cmdCount  := s.cmdCount + BitVec.ofNat 32 cs.length
    out       := s.out ++ cs.flatMap packetBytes
    outLen    := s.outLen + BitVec.ofNat 32 (cs.flatMap packetBytes).length
    lastFrame := cs.foldl frameAfter s.lastFrame }

theorem copied_nil (s : State) : copied [] s = s := by
  simp [copied]

/-- Copying packets is copying the first and then the others. -/
theorem copied_cons (c : Command) (cs : List Command) (s : State) : copied (c :: cs) s = copied cs (copied [c] s) := by
  simp [copied, BitVec.ofNat_add, BitVec.add_assoc, BitVec.add_comm (BitVec.ofNat 32 cs.length)]

theorem copied_singleton (c : Command) (s : State) :
    copied [c] s = sent (packetBytes c) (setLastFrame (frameAfter s.lastFrame c) (advance c s)) := by
  simp [copied, sent, advance, setLastFrame, packetBytes_length]

/-- A packet that the identity copies: within bounds, with a frame word where it needs one, and with no extra bytes
that the policy would keep from OUT (R153, R106). -/
structure Copyable (policy : ExtraPolicy) (c : Command) : Prop where
  wf    : wellFormedCommand c = true
  word  : isFrameBearing c.opcode = true → c.payload ≠ []
  extra : c.extra = [] ∨ policy = .emit

/-- An identity run with the packets of `cs` still to come: they stand from IN_OFFSET to IN_LEN, and OUT holds them. -/
structure Copying (cs : List Command) (s : State) : Prop where
  packets  : ∀ c ∈ cs, Copyable (policyInForce s) c
  schedule : s.schedule = []
  running  : runningIn .transform s
  cfgDelay : s.cfgDelay = 0
  cfgFlags : s.cfgFlags = 0
  delay    : s.delay = 0
  floor    : s.floor = 0
  inLen    : s.inOffset.toNat + (cs.flatMap packetBytes).length = s.inLen.toNat
  holds    : inHolds s s.inOffset.toNat (cs.flatMap packetBytes)
  room     : fits (cs.flatMap packetBytes) s

theorem stream_length_cons (c : Command) (cs : List Command) :
    ((c :: cs).flatMap packetBytes).length = (packetBytes c).length + (cs.flatMap packetBytes).length := by
  rw [List.flatMap_cons, List.length_append]

theorem Copying.packet_inside (h : Copying (c :: cs) s) :
    s.inOffset.toNat + (packetBytes c).length ≤ s.inLen.toNat := by
  have hin := h.inLen
  rw [stream_length_cons] at hin
  omega

theorem Copying.packet_fits (h : Copying (c :: cs) s) : fits (packetBytes c) s := by
  have hroom := h.room
  rw [fits, stream_length_cons] at hroom
  rw [fits]
  omega

/-- The step of an identity run copies the first packet to come. -/
theorem Copying.step_eq (h : Copying (c :: cs) s) : step s = .next (copied [c] s) := by
  obtain ⟨hwf, hword, hextra⟩ := h.packets c List.mem_cons_self
  obtain ⟨hphase, hmode⟩ := h.running
  have hgate : gatePasses (advance c s) := .inl (by simp [h.cfgFlags])
  have hsame : transformOf c.opcode c s.inOffset (advance c s) = copied [c] s := by
    rw [copied_singleton]
    exact transformOf_unchanged (s := advance c s) h.delay h.floor h.cfgDelay hgate hword
      (encodeCommand_packet hwf hextra) h.packet_fits
  have hexec : step s = exec (instrOfCommand c) (afterTurn s) :=
    step_loadedPacket (framersTurn_of_no_turns h.schedule) (.inl h.running) (by rw [wellFormed_instrOfCommand, hwf])
      (encode_instrOfCommand c) h.packet_inside (inHolds_append h.holds).1
  rw [hexec, afterTurn_of_no_turns h.schedule, exec_instrOfCommand, runCommand, hphase, hmode, ← hsame]

/-- After that step the run is an identity run over the other packets. -/
theorem Copying.tail (h : Copying (c :: cs) s) : Copying cs (copied [c] s) := by
  have hin := h.inLen
  have hroom := h.room
  have hinside := h.packet_inside
  rw [stream_length_cons] at hin
  rw [fits, stream_length_cons] at hroom
  rw [packetBytes_length] at hinside
  have hoffset : (copied [c] s).inOffset.toNat = s.inOffset.toNat + (packetBytes c).length := by
    rw [copied_singleton, packetBytes_length]
    exact advance_inOffset_toNat hinside
  have houtLen : (copied [c] s).outLen.toNat = s.outLen.toNat + (packetBytes c).length := by
    rw [copied_singleton]
    exact appendOut_outLen_toNat h.packet_fits
  exact
    { h with
      packets := fun d hd => h.packets d (List.mem_cons_of_mem c hd)
      inLen := by rw [hoffset, Nat.add_assoc]; exact hin
      holds := by rw [hoffset]; exact (inHolds_append h.holds).2
      room := by rw [fits, houtLen, Nat.add_assoc]; exact hroom }

/-- With no packet to come the run is at the end of its input, and has no trailer (R165). -/
theorem Copying.step_nil (h : Copying [] s) : step s = .next (finishRun s) := by
  have htrailer : s.cfgFlags.getLsbD 1 = false := by simp [h.cfgFlags]
  rw [endOfInputIsDone s (framersTurn_of_no_turns h.schedule) (.inl ⟨h.running, htrailer, h.inLen.ge⟩),
    afterTurn_of_no_turns h.schedule]
  rfl

/-- An identity run copies what is to come, a packet a step, and ends. -/
theorem Copying.run_eq (h : Copying cs s) :
    Sys2Proof.core.run (cs.length + 1) s = .next (finishRun (copied cs s)) := by
  induction cs generalizing s with
  | nil => rw [copied_nil]; exact core_run_next h.step_nil 0
  | cons c cs ih => rw [copied_cons]; exact (core_run_next h.step_eq _).trans (ih h.tail)

/-- Each packet is at least its header's 8 bytes (R80). -/
theorem eight_mul_length_le (cs : List Command) : 8 * cs.length ≤ (cs.flatMap packetBytes).length := by
  induction cs with
  | nil => exact Nat.le_refl 0
  | cons c cs ih =>
    rw [stream_length_cons, packetBytes_length, List.length_cons]
    omega

end Copying

/-- Settles O57: the run is an identity run from its start, and its last state is read off. -/
theorem identityRun : Obligations.IdentityRun := by
  intro cs s hcs hschedule hrun hD hflags hoffset hcount hout houtLen hdelay hfloor hgate hlast hlen hholds hroom
  have hcopying : Copying cs s :=
    { packets := fun c hc =>
        have ⟨hextra, hsize, hword, hpolicy⟩ := hcs c hc
        ⟨(wellFormedCommand_iff c).mpr ⟨hextra, hsize⟩, hword, hpolicy⟩
      schedule := hschedule
      running := hrun
      cfgDelay := hD
      cfgFlags := hflags
      delay := hdelay
      floor := hfloor
      inLen := by simp [hoffset, hlen]
      holds := by rw [hoffset]; exact hholds
      room := by simpa [fits, houtLen] using hroom }
  have hinOffset : (copied cs s).inOffset = s.inLen := by simp [copied, hoffset, ← hlen]
  have hcmdCount : (copied cs s).cmdCount.toNat = cs.length := by
    have hheaders := eight_mul_length_le cs
    have hlt := s.inLen.isLt
    have hcounted : (copied cs s).cmdCount = BitVec.ofNat 32 cs.length := by simp [copied, hcount]
    rw [hcounted, BitVec.toNat_ofNat]
    omega
  refine ⟨_, hcopying.run_eq, rfl, ?_, hdelay, hfloor, hgate, ?_, hinOffset, hcmdCount⟩
  · simp only [finishRun_out, copied, hout, List.nil_append]
  · simp only [finishRun_lastFrame, copied, hlast, lastFrameOf_eq]

end Sys2Proof.Machine

/-! ## The host's control (spec/43_host_control.md)

First the packet commands in DECODE and ENCODE mode and the CTRL commands; then what each host operation answers; then
reads of IN where bytes were not loaded; last, that a good state always steps and that an ENCODE run ends. -/

namespace Sys2Proof.Machine

section RecordModes

variable {s : State} {i : Instr} {n op : Word} {p : List Word} {x : List Byte}

/-! ### Packet commands in DECODE and ENCODE mode (R129, R194, R195) -/

/-- Each of the nine packet commands runs its record; which transform it names matters in TRANSFORM mode only (R129). -/
theorem exec_packetForm (h : (i, op) ∈ packetForms n p x) (s : State) :
    ∃ transform, exec i s = runCommand ⟨op, p, x⟩ transform s := by
  rw [packetForms, List.mem_append, List.mem_cons] at h
  rcases h with hframe | hreset | hplain
  · exact ⟨_, exec_frameForm hframe s⟩
  · cases hreset
    exact ⟨transformReset, rfl⟩
  · exact ⟨_, exec_plainForm hplain s⟩

theorem exec_packetForm_decode (h : (i, op) ∈ packetForms n p x) (hrun : runningIn .decode s) :
    exec i s = .next (deliver ⟨op, p, x⟩ (advance ⟨op, p, x⟩ s)) := by
  obtain ⟨transform, hexec⟩ := exec_packetForm h s
  rw [hexec, runCommand, hrun.1, hrun.2]

theorem exec_packetForm_encode (h : (i, op) ∈ packetForms n p x) (hrun : runningIn .encode s) :
    exec i s = .next (encodeRecord ⟨op, p, x⟩ s) := by
  obtain ⟨transform, hexec⟩ := exec_packetForm h s
  rw [hexec, runCommand, hrun.1, hrun.2]

theorem encodeRecord_go {c : Command} {t : State} (h : emit c s.cmdCount s = .go () t) :
    encodeRecord c s = countEncoded t := by
  rw [encodeRecord, h]

theorem encodeRecord_stop {c : Command} {t : State} (h : emit c s.cmdCount s = .stop t) : encodeRecord c s = t := by
  rw [encodeRecord, h]

/-- ENCODE's first check is the record's bounds (R106, R225). -/
theorem encodeCommand_out_of_bounds (policy : ExtraPolicy) (op : Word)
    (h : 3 < x.length ∨ 2 ^ 32 - 1 < 4 * p.length + x.length) :
    encodeCommand policy ⟨op, p, x⟩ = .error .cmdInvalid :=
  if_pos h

theorem wellFormedCommand_of_bounds (op : Word) (hx : x.length ≤ 3) (hsize : 4 * p.length + x.length ≤ 2 ^ 32 - 1) :
    wellFormedCommand ⟨op, p, x⟩ = true :=
  (wellFormedCommand_iff _).mpr ⟨hx, hsize⟩

end RecordModes

/-- Settles O13: the record is delivered after DECODE_NEXT's bookkeeping. -/
theorem decodeModeDelivers : Obligations.DecodeModeDelivers := by
  intro n p x i op s h hrun
  rw [exec_packetForm_decode h hrun, advance_eq_pastPacket]
  rfl

/-- Settles O14: ENCODE and WRITE_PACKET succeed, and the record is counted. -/
theorem encodeModeEmits : Obligations.EncodeModeEmits := by
  intro n p x i op s h hrun hx hsize henc hfit
  rw [exec_packetForm_encode h hrun,
    encodeRecord_go (emit_wireBytes s.cmdCount (wellFormedCommand_of_bounds op hx hsize) henc hfit)]
  rfl

/-- Settles O15: the emission stops at ENCODE's two checks in their order, or at WRITE_PACKET's. -/
theorem encodeModeErrors : Obligations.EncodeModeErrors := by
  intro n p x i op s h hrun
  rw [exec_packetForm_encode h hrun]
  refine ⟨fun hbad => ?_, fun hx hsize hne hpolicy => ?_, fun hx hsize henc hfit => ?_⟩
  · rw [encodeRecord_stop (emit_error _ (encodeCommand_out_of_bounds _ op hbad))]
  · have hfault : encodeCommand (policyInForce s) ⟨op, p, x⟩ = .error .extraUnencodable := by
      rw [hpolicy]
      exact encodeCommand_fault (wellFormedCommand_of_bounds op hx hsize) hne
    rw [encodeRecord_stop (emit_error _ hfault)]
  · have hbytes := encodeCommand_wireBytes (wellFormedCommand_of_bounds op hx hsize) henc
    rw [encodeRecord_stop (emit_overflow _ hbytes hfit)]

end Sys2Proof.Machine

namespace Sys2Proof.Machine

/-! ### CTRL commands (R191, R192) -/

/-- Settles O17: CTRL_NOP's meaning is the state itself, whatever the ignored bits. -/
theorem ctrlNopKeepsState : Obligations.CtrlNopKeepsState :=
  fun _ _ => rfl

/-- Each start command is the same start, in its own mode (R193 to R195). -/
theorem exec_startForm {r : BitVec 30} {i : Instr} {m : Mode}
    (h : (i, m) ∈ [(Instr.startTransform r, Mode.transform), (.startEncode r, .encode), (.startDecode r, .decode)])
    (s : State) : exec i s = .next (startUnlessRunning m s) := by
  simp only [List.mem_cons, Prod.mk.injEq, List.not_mem_nil, or_false] at h
  rcases h with ⟨rfl, rfl⟩ | ⟨rfl, rfl⟩ | ⟨rfl, rfl⟩ <;> rfl

/-- Settles O18: outside RUNNING the start is START(mode), and while RUNNING it is nothing. -/
theorem startCommandsBegin : Obligations.StartCommandsBegin := by
  intro r i m s h
  rw [exec_startForm h]
  rcases startUnlessRunning_cases m s with ⟨hrunning, e⟩ | ⟨hrest, e⟩ <;> rw [e]
  · exact ⟨fun hne => absurd hrunning hne, fun _ => rfl⟩
  · exact ⟨fun _ => rfl, fun hp => absurd hp hrest⟩

/-! ### Register reads (R22, R25, R190) -/

/-- STATUS as a number: the three fields at bits 0, 2 and 8, and nothing between them (R25). -/
theorem statusWord_toNat (s : State) :
    (statusWord s).toNat =
      (phaseBits s.phase).toNat + 4 * (modeBits s.mode).toNat + 256 * (errCodeBits s.errCode).toNat := by
  simp only [statusWord, toNat_append_eq_add, BitVec.toNat_zero]
  omega

/-- Settles O27: the word handed back is `regRead`'s, slot by slot. -/
theorem regReadValues : Obligations.RegReadValues := by
  intro idx rest s hs
  refine ⟨regRead idx s, by rw [step_host hs]; rfl, ?_⟩
  refine ⟨?ctrl, ?status, ?errInfo, ?cfgDelay, ?cfgFlags, ?inLen, ?inOffset, ?outLen, ?delayLo, ?delayHi, ?floor,
    ?gateOpen, ?lastFrame, ?cmdCount, ?reserved⟩
  case status =>
    rintro rfl
    refine (statusWord_toNat s).trans (congrArg₂ _ (congrArg₂ _ ?_ (congrArg _ ?_)) (congrArg _ ?_))
    · cases s.phase <;> rfl
    · cases s.mode <;> rfl
    · cases s.errCode <;> rfl
  case cfgFlags =>
    rintro rfl
    exact BitVec.toNat_setWidth_of_le (by decide)
  case delayLo =>
    rintro rfl
    exact BitVec.extractLsb'_toNat ..
  case delayHi =>
    rintro rfl
    have hlt := s.delay.isLt
    have hhigh : (s.delay.extractLsb' 32 32).toNat = s.delay.toNat / 2 ^ 32 % 2 ^ 32 := by
      rw [BitVec.extractLsb'_toNat, Nat.shiftRight_eq_div_pow]
    exact hhigh.trans (Nat.mod_eq_of_lt (by omega))
  case gateOpen =>
    rintro rfl
    change (if s.gateOpen then (1 : Word) else 0).toNat = _
    cases s.gateOpen <;> rfl
  case reserved => rintro (rfl | rfl) <;> rfl
  all_goals rintro rfl; rfl

/-! ### IN and the lists (R196, R197, R206) -/

/-- LoadIn outside RUNNING, of an operand within R196's bound, is the store. -/
theorem loadIn_of_ne {s : State} {bytes : List Byte} (hphase : s.phase ≠ .running) (hlen : bytes.length ≤ 2 ^ 32 - 1) :
    loadIn bytes s = .next (storeIn bytes s) := by
  rw [loadIn, if_neg hphase, if_neg (Nat.not_lt.mpr hlen)]

theorem setCmdIn_of_ne {s : State} (l : List Command) (hphase : s.phase ≠ .running) :
    setCmdIn l s = .next (storeCmdIn l s) := by
  rw [setCmdIn, if_neg hphase]

/-- Settles O31: the loaded memory reads as the bytes, from address 0 on. -/
theorem loadInStores : Obligations.LoadInStores := by
  intro bytes rest s hs hphase hlen
  refine ⟨Memory.load 0 bytes, ?_, fun a => ?_⟩
  · rw [step_host hs]
    exact loadIn_of_ne (s := setSchedule rest s) hphase hlen
  · rw [Memory.read_load, if_pos (Nat.zero_le a), Nat.sub_zero]

theorem outRead_of_lt {s : State} {i : Nat} {b : Byte} (hi : i < s.outLen.toNat) (hb : s.out[i]? = some b) :
    outRead i s = b := by
  rw [outRead, if_pos hi, hb, Option.getD_some]

theorem outRead_of_le {s : State} {i : Nat} (hi : s.outLen.toNat ≤ i) : outRead i s = 0 :=
  if_neg (Nat.not_lt.mpr hi)

/-- Settles O32: one clause for the write of CMD_IN and three for the reads. -/
theorem listOperations : Obligations.ListOperations := by
  intro rest s
  refine ⟨fun l hs hphase => ?_, fun i b hs hi hb => ?_, fun i hs hi => ?_, fun i hs => ?_⟩ <;> rw [step_host hs]
  · exact setCmdIn_of_ne (s := setSchedule rest s) l hphase
  · rw [hostStep, outRead_of_lt (s := setSchedule rest s) hi hb]
    rfl
  · rw [hostStep, outRead_of_le (s := setSchedule rest s) hi]
    rfl
  · rfl

/-- Settles O33: both operations test for RUNNING first. -/
theorem noLoadWhileRunning : Obligations.NoLoadWhileRunning := by
  intro rest s hrun
  refine ⟨fun bytes hs => ?_, fun l hs => ?_⟩ <;> rw [step_host hs]
  · exact if_pos hrun
  · exact if_pos hrun

end Sys2Proof.Machine

namespace Sys2Proof.Machine

/-! ### Reads of IN at any address (R63, R196) -/

/-- A state with this IN and this count of draws, for the rules about reads, which look at nothing else. -/
def readingFrom (m : Memory) (draws : Nat) : State :=
  { State.reset with inMem := m, draws := draws }

theorem unloaded_range' (s : State) (a n : Nat) :
    unloaded s (List.range' a n) = (List.range n).countP fun k => (Memory.read s.inMem (a + k)).isNone := by
  rw [unloaded, List.range'_eq_map_range, List.countP_map]
  rfl

/-- The byte read at place `i` is as loaded, or the draw after those of the bytes before it. -/
theorem readInOrder_getElem? (s : State) (addrs : List Nat) (i : Nat) :
    (readInOrder s addrs)[i]? = addrs[i]?.map fun a =>
      (Memory.read s.inMem a).getD (Config.freeByte (s.draws + unloaded s (addrs.take i))) := by
  rw [readInOrder, List.getElem?_map, List.getElem?_zipIdx, Option.map_map, Nat.zero_add]
  rfl

theorem readInOrder_range'_getElem? (s : State) {a n i : Nat} (hi : i < n) :
    (readInOrder s (List.range' a n))[i]? = some ((Memory.read s.inMem (a + i)).getD (Config.freeByte
      (s.draws + (List.range i).countP fun k => (Memory.read s.inMem (a + k)).isNone))) := by
  have haddr : (List.range' a n)[i]? = some (a + i) := by simp [hi]
  have htake : (List.range' a n).take i = List.range' a i := by
    rw [List.range'_eq_map_range, List.range'_eq_map_range, ← List.map_take, List.take_range, Nat.min_eq_left hi.le]
  rw [readInOrder_getElem?, haddr, htake, unloaded_range', Option.map_some]

/-- Four bytes read are the bytes of the word read, loaded or drawn (R63). -/
theorem readWord_eq_be32 (m : Memory) (a draws : Nat) :
    ∃ b0 b1 b2 b3, (readBytes m a 4 draws).1 = [b0, b1, b2, b3] ∧
      readWord m a draws = (be32 b0 b1 b2 b3, (readBytes m a 4 draws).2) :=
  ⟨_, _, _, _, rfl, rfl⟩

/-- Settles O41: reading bytes is the reads in order of address, from any IN and count of draws. -/
theorem unloadedBytesAreDrawn : Obligations.UnloadedBytesAreDrawn := by
  intro m a n d
  have hread := readBytes_eq_readInOrder a n (readingFrom m d)
  have hbytes : (readBytes m a n d).1 = _ := congrArg Prod.fst hread
  have hdraws : (readBytes m a n d).2 = _ := congrArg Prod.snd hread
  refine ⟨readBytes_length m a n d, ?_, fun i hi => ?_, ?_⟩
  · exact hdraws.trans (congrArg (d + ·) (unloaded_range' (readingFrom m d) a n))
  · exact (congrArg (·[i]?) hbytes).trans (readInOrder_range'_getElem? (readingFrom m d) hi)
  · obtain ⟨b0, b1, b2, b3, hfour, hword⟩ := readWord_eq_be32 m a d
    rw [hword]
    exact ⟨b0, b1, b2, b3, hfour, be32_toNat b0 b1 b2 b3, rfl⟩

end Sys2Proof.Machine

namespace Sys2Proof.Machine

section Answers

variable {s t : State}

/-! ### A good state steps (R200, R206) -/

/-- The host's duty for LoadIn (R206, R196). -/
theorem dutyKept_loadIn {bytes : List Byte} {rest : List Turn} (hs : s.schedule = .host (.loadIn bytes) :: rest)
    (hduty : dutyKept s = true) : s.phase ≠ .running ∧ bytes.length ≤ 2 ^ 32 - 1 := by
  simpa only [dutyKept, hs, Bool.and_eq_true, decide_eq_true_eq] using hduty

/-- The host's duty for SetCmdIn (R206). -/
theorem dutyKept_setCmdIn {l : List Command} {rest : List Turn} (hs : s.schedule = .host (.setCmdIn l) :: rest)
    (hduty : dutyKept s = true) : s.phase ≠ .running := by
  simpa only [dutyKept, hs, decide_eq_true_eq] using hduty

/-- A write to a slot always answers a next state: CTRL's commands do, and the other writes store or do nothing. -/
theorem regWrite_answers (idx : Fin 16) (v : Word) (s : State) : ∃ t, regWrite idx v s = .next t := by
  unfold regWrite
  split
  case h_1 =>
    rcases exec_decodeCtrl_cases v s with h | ⟨m, _, _, _, h⟩ <;> exact ⟨_, h⟩
  all_goals exact ⟨_, rfl⟩

/-- The host's turn answers a next state where it keeps its duties. -/
theorem hostStep_answers {op : HostOp} {rest : List Turn} (hs : s.schedule = .host op :: rest)
    (hduty : dutyKept s = true) : ∃ t, hostStep op (setSchedule rest s) = .next t := by
  cases op with
  | loadIn bytes =>
    obtain ⟨hphase, hlen⟩ := dutyKept_loadIn hs hduty
    exact ⟨_, loadIn_of_ne (s := setSchedule rest s) hphase hlen⟩
  | setCmdIn l =>
    have hphase := dutyKept_setCmdIn hs hduty
    exact ⟨_, setCmdIn_of_ne (s := setSchedule rest s) l hphase⟩
  | regWrite idx v => exact regWrite_answers idx v _
  | regRead idx => exact ⟨_, rfl⟩
  | outRead i => exact ⟨_, rfl⟩
  | cmdOutRead i => exact ⟨_, rfl⟩
  | hardReset => exact ⟨_, rfl⟩

/-- ENCODE_STEP answers a next state where CMD_COUNT is not past the end of CMD_IN (R194). -/
theorem encodeStep_answers (hrun : runningIn .encode s) (hcount : s.cmdCount.toNat ≤ s.cmdIn.length) :
    ∃ t, encodeStep s = .next t := by
  rcases Nat.eq_or_lt_of_le hcount with hend | hlt
  · exact ⟨_, if_pos hend⟩
  · rw [encodeStep_record (List.getElem?_eq_getElem hlt), exec_instrOfCommand, runCommand, hrun.1, hrun.2]
    exact ⟨_, rfl⟩

/-- The FRAMER's step of a good state answers a next state: MODE is not NONE in a run, and CMD_COUNT is in CMD_IN. -/
theorem Good.framerStep_answers (h : Good s) : ∃ t, framerStep s = .next t := by
  cases hphase : s.phase with
  | running =>
    cases hmode : s.mode with
    | none => exact absurd hmode (h.mode_ne_none hphase)
    | transform =>
      rw [framerStep_transform ⟨hphase, hmode⟩]
      exact fetchStep_answers _ (.inl ⟨hphase, hmode⟩)
    | decode =>
      rw [framerStep_decode ⟨hphase, hmode⟩]
      exact fetchStep_answers _ (.inr ⟨hphase, hmode⟩)
    | encode =>
      rw [framerStep_encode ⟨hphase, hmode⟩]
      exact encodeStep_answers ⟨hphase, hmode⟩ (h.encodePos hphase hmode)
  | idle => exact ⟨s, by rw [framerStep, hphase]⟩
  | done => exact ⟨s, by rw [framerStep, hphase]⟩
  | error => exact ⟨s, by rw [framerStep, hphase]⟩

end Answers

/-- Settles O54: by who has the turn; taking it off the schedule leaves the state good. -/
theorem goodStatesStep : Obligations.GoodStatesStep := by
  intro s h hduty
  rcases step_cases s with ⟨op, rest, hs, e⟩ | ⟨_, e⟩ <;> rw [e]
  · exact hostStep_answers hs hduty
  · exact (good_setSchedule s.schedule.tail h).framerStep_answers

section EncodingRun

variable {s t : State}

/-! ### An ENCODE run ends (R194, R201) -/

/-- Steps that each end the run or keep `P` and lower `size` end the run, within one step more than `size`. -/
theorem run_ends_of_size_lt {P : State → Prop} {size : State → Nat}
    (hstep : ∀ s, P s → ∃ t, step s = .next t ∧ (runEnded t = true ∨ (P t ∧ size t < size s))) (hs : P s) :
    ∃ n t, n ≤ size s + 1 ∧ Sys2Proof.core.run n s = .next t ∧ runEnded t = true := by
  induction hk : size s using Nat.strong_induction_on generalizing s with
  | _ k ih =>
    obtain ⟨t, ht, hended | ⟨hP, hlt⟩⟩ := hstep s hs
    · exact ⟨1, t, by omega, core_run_next ht 0, hended⟩
    · obtain ⟨n, u, hn, hu, hended⟩ := ih (size t) (hk ▸ hlt) hP rfl
      exact ⟨n + 1, u, by omega, (core_run_next ht n).trans hu, hended⟩

/-- A good state of a running ENCODE run that is left to itself. -/
structure Encoding (s : State) : Prop where
  good     : Good s
  schedule : s.schedule = []
  running  : runningIn .encode s

/-- The records still to be encoded. -/
def recordsLeft (s : State) : Nat :=
  s.cmdIn.length - s.cmdCount.toNat

/-- CMD_COUNT does not wrap: every record counted put at least 8 bytes into OUT (R194; log entry 14). -/
theorem Encoding.cmdCount_succ (h : Encoding s) : (s.cmdCount + 1).toNat = s.cmdCount.toNat + 1 := by
  have hencoded := h.good.encoded h.running.2
  have hlt := s.outLen.isLt
  rw [BitVec.toNat_add]
  exact Nat.mod_eq_of_lt (by change s.cmdCount.toNat + 1 < 2 ^ 32; omega)

/-- A move of the FRAMER that leaves an ENCODE run RUNNING has encoded one of the records that were left. -/
theorem FramerMove.recordsLeft_lt (hmove : FramerMove s t) (h : Encoding s) (ht : t.phase = .running) :
    recordsLeft t < recordsLeft s := by
  obtain ⟨_, hmode⟩ := h.running
  cases hmove with
  | rest hphase => exact absurd ht hphase
  | truncated e draws _ _ _ => cases ht
  | endTransform _ htransform => rw [hmode] at htransform; cases htransform
  | finish _ _ => cases ht
  | transform c draws _ htransform _ => rw [hmode] at htransform; cases htransform
  | decode c draws _ hdecode _ => rw [hmode] at hdecode; cases hdecode
  | encode c _ _ hcount =>
    rcases encodeRecord_cases c s with ⟨e, _, hr⟩ | ⟨bytes, _, _, hr⟩ <;> rw [hr] at ht ⊢
    · cases ht
    · have hsucc := h.cmdCount_succ
      simp only [recordsLeft, countEncoded_cmdIn, countEncoded_cmdCount, appendOut_cmdIn, appendOut_cmdCount, hsucc]
      omega

/-- A step of an ENCODE run ends it, or goes on with it and one record less. -/
theorem Encoding.step_cases (h : Encoding s) :
    ∃ t, step s = .next t ∧ (runEnded t = true ∨ (Encoding t ∧ recordsLeft t < recordsLeft s)) := by
  obtain ⟨t, hframer⟩ := h.good.framerStep_answers
  have hstep : step s = .next t := by
    rw [step_framersTurn (framersTurn_of_no_turns h.schedule), afterTurn_of_no_turns h.schedule, hframer]
  have hmove := framerMove_of_framerStep hframer
  have keeps := KeepsInputs.framerStep hframer
  refine ⟨t, hstep, ?_⟩
  rcases hmove.running_or_ended h.running.1 with hphase | hended
  · exact .inr ⟨⟨goodKept s t h.good hstep, keeps.schedule.trans h.schedule, hphase, keeps.mode.trans h.running.2⟩,
      hmove.recordsLeft_lt h hphase⟩
  · exact .inl hended

end EncodingRun

/-- Settles O56: each step that goes on uses up a record of CMD_IN. -/
theorem encodingRunEnds : Obligations.EncodingRunEnds :=
  fun _ hgood hs hrun => run_ends_of_size_lt (fun _ => Encoding.step_cases) ⟨hgood, hs, hrun⟩

end Sys2Proof.Machine

namespace Sys2Proof.Machine

/-! ### The FRAMER outside a run (R200, R239; log entry 3) -/

/-- The FRAMER's own step is the identity in IDLE, DONE and ERROR. -/
theorem framerStep_of_phase_ne_running {s : State} (h : s.phase ≠ .running) : framerStep s = .next s := by
  cases hphase : s.phase with
  | running => exact absurd hphase h
  | idle => rw [framerStep, hphase]
  | done => rw [framerStep, hphase]
  | error => rw [framerStep, hphase]

/-- Settles O26: taking the turn off the schedule leaves PHASE, so the FRAMER's step is the identity there. -/
theorem framerRestsOutsideRun : Obligations.FramerRestsOutsideRun := by
  intro s hturn hphase
  rw [step_framersTurn hturn]
  exact framerStep_of_phase_ne_running (s := afterTurn s) hphase

end Sys2Proof.Machine

namespace Sys2Proof.Machine

/-! ### The parameters and hardware reset (R8, R47, R250) -/

/-- No host operation writes a parameter: replies, starts, stores and hardware reset all leave both alone. -/
theorem hostStep_parameters {op : HostOp} {s t : State} (h : hostStep op s = .next t) :
    t.outCap = s.outCap ∧ t.extraPolicy = s.extraPolicy := by
  rcases hostStep_cases h with rfl | ⟨_, rfl⟩ | ⟨_, _, _, _, _, _, rfl⟩ |
    ⟨_, ⟨_, rfl⟩ | ⟨_, rfl⟩ | ⟨_, rfl⟩ | ⟨_, _, rfl⟩ | ⟨_, rfl⟩⟩ | ⟨_, rfl⟩
  all_goals exact ⟨rfl, rfl⟩

/-- Settles O38: by who has the turn; the FRAMER's step keeps every input, the parameters among them. -/
theorem parametersFixed : Obligations.ParametersFixed := by
  intro s t hstep
  rcases step_next_cases hstep with ⟨_, _, _, hhost⟩ | ⟨_, hframer⟩
  · simpa only [setSchedule_outCap, setSchedule_extraPolicy] using hostStep_parameters hhost
  · have keeps := KeepsInputs.framerStep hframer
    exact ⟨keeps.outCap, keeps.extraPolicy⟩

/-- Settles O34: the host's turn runs the reset, which does not test PHASE. -/
theorem hardwareResetValues : Obligations.HardwareResetValues := by
  intro rest s hs
  rw [step_host hs]
  rfl

end Sys2Proof.Machine
